-- ==== Sys2Proof/Word.lean ====
section
/-! DEFINITION. The word and byte types of the machine (00_scope R4, R6) and the eight words of a
descriptor as plain data (30_encoding R91). -/

namespace Sys2Proof

/-- A 32-bit word: registers, FIFO entries, samples, binary32 patterns, bus addresses (R4, R6). -/
abbrev Word := BitVec 32

/-- One byte of the byte-wise view of memory (20_memory R72). -/
abbrev Byte := BitVec 8

/-- The eight 32-bit words of a descriptor, in their order in memory (30_encoding R91). -/
structure Desc where
  ti     : Word
  src    : Word
  dst    : Word
  len    : Word
  stride : Word
  next   : Word
  rsv0   : Word
  rsv1   : Word
  deriving DecidableEq, Repr, Inhabited

end Sys2Proof
end

