-- ==== Sys2Proof/Config.lean ====
section
/-! DEFINITION. The configuration record of 00_scope R4 (a value of it stands in State, so every OPEN
parameter is an argument of the model), the inputs of the machine from outside, and the free values. -/

namespace Sys2Proof

/-- `NBR_BUFFERS` (00_scope R4, D6). -/
abbrev nbrBuffers : Nat := 2

/-- `NBR_CHANNELS` (00_scope R4, D7). -/
abbrev nbrChannels : Nat := 2

/-- `F2I_ROUND`, the rounding of float to integer (00_scope R4, 45 R276, D21). -/
inductive Rounding where
  | rne
  | rtz
  deriving DecidableEq, Repr, Inhabited

/-- The implementation parameters of 00_scope R4 that the source leaves open or the spec only gives a
default for. `SLEEP_OVERHEAD` is `sleepNum / sleepDen` seconds (log 28). The number of GPIO pins and
the output function code are parameters of the model (log 18). `gpioBus`, `pcmBus`, `dmaBus` are the
window bases 20 R62 leaves to the platform; only R10's check reads them (log 39). `descSlotsOnly` says which of
two rules of the spec a load from an aligned address of the Sample Region follows (log 11). -/
structure Cfg where
  blockSize  : Nat
  blockBus   : Word
  pcmFifoBus : Word
  dmaChannel : BitVec 4
  gpioBus    : Word
  pcmBus     : Word
  dmaBus     : Word
  winGpio    : Nat
  winPcm     : Nat
  winDma     : Nat
  fifoDepth  : Nat
  rxReqLevel : Nat
  txReqLevel : Nat
  prefillWords : Nat
  sampleRate : Nat
  sleepNum   : Nat
  sleepDen   : Nat
  f2iRound   : Rounding
  nbrPins    : Nat
  gpioOutFn  : BitVec 3
  descSlotsOnly : Bool
  deriving DecidableEq, Repr, Inhabited

/-- The configuration of the reset state: the spec's defaults (00_scope R4) and, where it gives none,
example values of 95_test_vectors (DESIGN CHOICE, log 1). -/
def Cfg.default : Cfg where
  blockSize  := 64
  blockBus   := 0xDE000000#32
  pcmFifoBus := 0x7E203004#32
  dmaChannel := 0#4
  gpioBus    := 0x7E200000#32
  pcmBus     := 0x7E203000#32
  dmaBus     := 0x7E007000#32
  winGpio    := 4096
  winPcm     := 4096
  winDma     := 4096
  fifoDepth  := 64
  rxReqLevel := 1
  txReqLevel := 4
  prefillWords := 2
  sampleRate := 48000
  sleepNum   := 100
  sleepDen   := 1000000
  f2iRound   := .rne
  nbrPins    := 60
  gpioOutFn  := 1#3
  descSlotsOnly := false

/-- What the allocator and the window mapping answer to `init` (60 R304). -/
inductive AllocOutcome where
  | ok
  | outOfKernelMemory
  | cannotLock
  | cannotMap
  deriving DecidableEq, Repr, Inhabited

/-- The upward contract's operations (44 R230), as the owning application calls them. DESIGN CHOICE
(log 24): `init`'s `desired_driver_name`, whose meaning the spec leaves open (91 N27), is no argument
here, and no resource error fails `start`. -/
inductive Call where
  | init (alloc : AllocOutcome) (inputChannelBase outputChannelBase : Nat)
  | start
  | stop
  | restart
  | getLastError
  deriving DecidableEq, Repr, Inhabited

/-- A pull setting of a pin (40 R130). -/
inductive Pull where
  | none
  | down
  | up
  deriving DecidableEq, Repr, Inhabited

/-- Pseudo-instructions HOST may issue by itself (30 R104, 44 R249). -/
inductive Pseudo where
  | clrFifos
  | prefill (n : Nat)
  | disable
  | enable
  | clrErr
  | gpioWrite (pin v : Nat)
  | gpioRead (pin : Nat)
  | gpioPull (pin : Nat) (mode : Pull)
  | chainBuild
  | clearRegion
  | pipeIn (k : Fin 2)
  | pipeCall
  | pipeOut (k : Fin 2)
  | pipeBlock (k : Fin 2)
  | position
  | snapshot
  deriving DecidableEq, Repr, Inhabited

/-- One entry of the schedule: which agent moves next, with the input it moves on (00 R8 `draw`, 10
R33 `codec_in`, 42 R160, 20 R74). Log 3.

`dma`: the engine; `rx v`: the receive word event with `codec_in` value `v`; `tx`: the transmit word
event; `reg w`, `cvt sel ..`: HOST issues the encoded transaction or converter operation; `memRead`,
`memWrite`: HOST accesses the block (20 R66, R67); `pseudo`: HOST begins a pseudo-instruction;
`host`: HOST takes the next step of the sequence it is in; `call`: the owning application calls;
`codecReady`: the codec side channel answers START's steps 1 and 2 (44 R233, R234); `codecClock`: the
clock of a codec that is up stops or starts again (44 R234, 60 R306); `callback`: the external callback
returns with what it left in `stage_out` (44 R250); `requestExit`: the codec side channel raises it (44
R251). -/
inductive Turn where
  | dma
  | rx (v : BitVec 24)
  | tx
  | reg (w : BitVec 49)
  | cvt (sel : BitVec 2) (w0 w1 w2 w3 : Word)
  | memRead (a : Word)
  | memWrite (a v : Word)
  | pseudo (p : Pseudo)
  | host
  | call (c : Call)
  | codecReady (ok : Bool)
  | codecClock (on : Bool)
  | callback (out0 out1 : List Word) (exit : Bool)
  | requestExit
  deriving DecidableEq, Repr, Inhabited

/-- FREE VALUE: the n-th `draw` of 00_scope R8, a word about which no rule says anything (log 4). -/
opaque Config.freeWord : Nat → Word

/-- FREE VALUE: the turn taken when the schedule in State is used up (42 R160, R161; log 3). -/
opaque Config.freeTurn : Nat → Turn

end Sys2Proof
end

