-- ==== Sys2Proof/Machine/Float.lean ====
section
/-! DEFINITION. The converter's binary32 arithmetic (00_scope R7, 45_sample_converter R271 to R278):
operands as exact integers times powers of two, one explicit rounding at the end (log 35). -/

namespace Sys2Proof

/-- A finite binary32 value `(-1)^neg × mant × 2^exp`. -/
structure Fin32 where
  neg  : Bool
  mant : Nat
  exp  : Int
  deriving DecidableEq, Repr

/-- The value of a finite binary32 pattern. -/
def f32Unpack (w : Word) : Fin32 :=
  let e := (w.extractLsb' 23 8).toNat
  let f := (w.extractLsb' 0 23).toNat
  if e = 0 then ⟨w.getLsbD 31, f, -149⟩ else ⟨w.getLsbD 31, f + 2 ^ 23, (e : Int) - 150⟩

/-- `m / 2^k` rounded to the nearest integer, ties to even. -/
def roundShift (m k : Nat) : Nat :=
  let q := m / 2 ^ k
  let r := m % 2 ^ k
  if 2 ^ k < 2 * r ∨ (2 * r = 2 ^ k ∧ q % 2 = 1) then q + 1 else q

/-- `fl(x)` (R7): the binary32 pattern nearest to `(-1)^neg × m × 2^e`, ties to even, gradual underflow,
overflow to infinity. -/
def f32Round (neg : Bool) (m : Nat) (e : Int) : Word :=
  let sign : Nat := if neg then 2 ^ 31 else 0
  if m = 0 then BitVec.ofNat 32 sign
  else
    let k : Int := max ((Nat.log2 m : Int) - 23) (-149 - e)
    let q := if 0 ≤ k then roundShift m k.toNat else m * 2 ^ (-k).toNat
    let mag := (e + k + 149).toNat * 2 ^ 23 + q
    BitVec.ofNat 32 (sign + min mag 0x7F800000)

/-- `a ⊗ b` (R7) for finite `a`, `b`. -/
def f32Mul (a b : Word) : Word :=
  let x := f32Unpack a
  let y := f32Unpack b
  f32Round (x.neg != y.neg) (x.mant * y.mant) (x.exp + y.exp)

/-- `f32_of_s32(as_s32(w))` (R6, R7). -/
def f32OfS32 (w : Word) : Word := f32Round (decide (w.toInt < 0)) w.toInt.natAbs 0

/-- `SCALE_IN` (R278). -/
def scaleIn : Word := 0x34000001#32

/-- `SCALE_OUT` (R278). -/
def scaleOut : Word := 0x4AFFFFFE#32

/-- `+1.0`. -/
def f32One : Word := 0x3F800000#32

/-- `−1.0`. -/
def f32NegOne : Word := 0xBF800000#32

/-- `i2f(w)` (R271). -/
def i2f (w : Word) : Word := f32Mul (f32OfS32 w) scaleIn

/-- The pattern is a NaN. -/
def f32IsNaN (w : Word) : Bool := decide (0x7F800000 < (w.extractLsb' 0 31).toNat)

/-- A number that orders non-NaN patterns as their values are ordered. -/
def f32Key (w : Word) : Int :=
  if w.getLsbD 31 then -((w.extractLsb' 0 31).toNat : Int) else ((w.extractLsb' 0 31).toNat : Int)

/-- `clamp(f, lo, hi)` for `f` not NaN (R274). -/
def f32Clamp (f lo hi : Word) : Word :=
  if f32Key f < f32Key lo then lo else if f32Key hi < f32Key f then hi else f

/-- `round_to_int(p)` (R276). -/
def roundToInt (mode : Rounding) (p : Word) : Int :=
  let x := f32Unpack p
  let n : Nat :=
    if 0 ≤ x.exp then x.mant * 2 ^ x.exp.toNat
    else match mode with
      | .rne => roundShift x.mant (-x.exp).toNat
      | .rtz => x.mant / 2 ^ (-x.exp).toNat
  if x.neg then -(n : Int) else (n : Int)

/-- `f2i(f)` (R273), `nan` being the `any value` of R277. -/
def f2i (mode : Rounding) (nan f : Word) : Word :=
  if f32IsNaN f then nan
  else BitVec.ofInt 32 (roundToInt mode (f32Mul (f32Clamp f f32NegOne f32One) scaleOut))

end Sys2Proof
end

