-- ==== Sys2Proof/Syntax.lean ====
section
/-! DEFINITION. The instructions of the machine, one constructor per row of spec/opcode_table.json:
descriptors (format DESC), register transactions (REG), converter operations (CVT) (30 R90, R94, R100,
R101). `ch` is the DMA channel field `offset[11:8]` of the tuple (R99). -/

namespace Sys2Proof

/-- One instruction. -/
inductive Instr where
  | xferRx (d : Desc)
  | xferTx (d : Desc)
  | xferOther (d : Desc)
  | dmaRdcs (ch : BitVec 4)
  | dmaReset (ch : BitVec 4) (v : Word)
  | dmaAbort (ch : BitVec 4) (v : Word)
  | dmaGo (ch : BitVec 4) (v : Word)
  | dmaPause (ch : BitVec 4) (v : Word)
  | dmaRdpos (ch : BitVec 4)
  | dmaSetcb (ch : BitVec 4) (a : Word)
  | dmaRdti (ch : BitVec 4)
  | dmaRdsrc (ch : BitVec 4)
  | dmaRddst (ch : BitVec 4)
  | dmaRdlen (ch : BitVec 4)
  | dmaRdstride (ch : BitVec 4)
  | dmaRdnext (ch : BitVec 4)
  | dmaRddbg (ch : BitVec 4)
  | dmaClrdbg (ch : BitVec 4) (v : Word)
  | pcmRdcs
  | pcmWrcs (v : Word)
  | pcmRdfifo
  | pcmWrfifo (v : Word)
  | pcmRdmode
  | pcmWrmode (v : Word)
  | pcmRdrxc
  | pcmWrrxc (v : Word)
  | pcmRdtxc
  | pcmWrtxc (v : Word)
  | pcmRddreq
  | pcmWrdreq (v : Word)
  | pcmRdinten
  | pcmWrinten (v : Word)
  | pcmRdintstc
  | pcmWrintstc (v : Word)
  | gpioSetfn (reg : Fin 6) (field : Fin 10) (f : BitVec 3)
  | gpioSet (bank : Fin 2) (v : Word)
  | gpioClr (bank : Fin 2) (v : Word)
  | gpioRead (bank : Fin 2)
  | gpioPud (v : Word)
  | gpioPudclk (bank : Fin 2) (v : Word)
  | cvtI2f (w : Word)
  | cvtI2fV4 (w0 w1 w2 w3 : Word)
  | cvtF2i (f : Word)
  | cvtF2iV4 (f0 f1 f2 f3 : Word)
  deriving DecidableEq, Repr, Inhabited

end Sys2Proof
end

