-- ==== Sys2Proof/Machine/Operands.lean ====
section
/-! DEFINITION. Operand forms: the layout of the block (20_memory R60 to R65), the descriptors the
builder writes and `decode_position` (41_descriptor_chain R141 to R148), the classification of a
descriptor's words (30_encoding R94), pin fields (10_state R28). -/

namespace Sys2Proof

/-- `round_up(n, m)` of 00_scope R6. -/
def roundUp (n m : Nat) : Nat := (n + m - 1) / m * m

/-- `BLOCK_SIZE_A` (00_scope R4). -/
def Cfg.blockSizeA (c : Cfg) : Nat := roundUp c.blockSize 4

/-- `N_DESC` (00_scope R4, 41 R141). -/
def Cfg.nDesc (c : Cfg) : Nat := nbrBuffers * c.blockSize * nbrChannels * 2

/-- `BUF_BYTES` (00_scope R4, 20 R63). -/
def Cfg.bufBytes (c : Cfg) : Nat := c.blockSizeA * nbrChannels * 4

/-- `DESC_PER_BUF` (00_scope R4, 41 R145). -/
def Cfg.descPerBuf (c : Cfg) : Nat := c.blockSize * nbrChannels * 2

/-- `DESC_BUS` (D5). -/
def Cfg.descBus (c : Cfg) : Nat := c.blockBus.toNat

/-- `SMP_BUS` (D5). -/
def Cfg.smpBus (c : Cfg) : Nat := c.blockBus.toNat + c.nDesc * 32

/-- Bytes of the Sample Region (10_state R29). -/
def Cfg.regionBytes (c : Cfg) : Nat := 2 * nbrBuffers * c.bufBytes

/-- `BLOCK_LEN` (20 R60). -/
def Cfg.blockLen (c : Cfg) : Nat := c.nDesc * 32 + c.regionBytes

/-- `in_base[k]` (20 R63). -/
def Cfg.inBase (c : Cfg) (k : Nat) : Nat := c.smpBus + k * c.bufBytes

/-- `out_base[k]` (20 R63). -/
def Cfg.outBase (c : Cfg) (k : Nat) : Nat := c.smpBus + (nbrBuffers + k) * c.bufBytes

/-- The slot of frame position `p` and channel `ch` in the buffer at `base` (20 R64). -/
def slotAddr (base p ch : Nat) : Nat := base + (p * nbrChannels + ch) * 4

/-- `desc_addr(i)` (20 R65). -/
def Cfg.descAddr (c : Cfg) (i : Nat) : Nat := c.descBus + 32 * i

/-- `desc_base[k]` as the builder records it (41 R145). -/
def Cfg.descBase (c : Cfg) (k : Nat) : Nat := c.descBus + 32 * k * c.descPerBuf

/-- `a` is the address of a descriptor slot (20 R65, R68). -/
def Cfg.isDescSlot (c : Cfg) (a : Nat) : Bool :=
  decide (c.descBus ≤ a) && decide (a < c.descBus + 32 * c.nDesc) && decide ((a - c.descBus) % 32 = 0)

/-- `[a, a+n)` lies inside the block (20 R60, R71). -/
def Cfg.inBlock (c : Cfg) (a n : Nat) : Bool :=
  decide (c.blockBus.toNat ≤ a) && decide (a + n ≤ c.blockBus.toNat + c.blockLen)

/-- `a` is a slot address in the block: a word of the Sample Region (30 R94, 20 R64; log 12). -/
def Cfg.isSlot (c : Cfg) (a : Nat) : Bool :=
  decide (a % 4 = 0) && decide (c.smpBus ≤ a) && decide (a < c.smpBus + c.regionBytes)

/-- `a` lies in the descriptor area (20 R78). -/
def Cfg.inDescArea (c : Cfg) (a : Nat) : Bool :=
  decide (c.descBus ≤ a) && decide (a < c.descBus + c.nDesc * 32)

/-- `a` lies in `in[k] ∪ out[k]` (20 R73). -/
def Cfg.inHalf (c : Cfg) (k a : Nat) : Bool :=
  (decide (c.inBase k ≤ a) && decide (a < c.inBase k + c.bufBytes)) ||
  (decide (c.outBase k ≤ a) && decide (a < c.outBase k + c.bufBytes))

/-- `a` lies in `in[0] ∪ in[1]`, and in which (44 R249). -/
def Cfg.inputBuf (c : Cfg) (k a : Nat) : Bool :=
  decide (c.inBase k ≤ a) && decide (a < c.inBase k + c.bufBytes)

/-- `physical_address(p)` for the pointer at byte offset `off` from the block's start; none outside the
block (20 R61). -/
def Cfg.physicalAddress (c : Cfg) (off : Nat) : Option Nat :=
  if off < c.blockLen then some (c.blockBus.toNat + off) else none

/-- `idx(k, p, c, d)` (41 R141). -/
def Cfg.descIdx (c : Cfg) (k p ch d : Nat) : Nat :=
  ((k * c.blockSize + p) * nbrChannels + ch) * 2 + d

/-- `TI_RX` (30 R97). -/
def tiRx : Word := 0x04030408#32

/-- `TI_TX` (30 R97). -/
def tiTx : Word := 0x04020048#32

/-- `TI_MASK` (30 R94). -/
def tiMask : Word := 0x001F0FF3#32

/-- The successor address of descriptor `i` (41 R144). -/
def Cfg.nextAddr (c : Cfg) (i : Nat) : Word := BitVec.ofNat 32 (c.descAddr ((i + 1) % c.nDesc))

/-- The read descriptor of `(k, p, ch)` (41 R142). -/
def Cfg.readDesc (c : Cfg) (k p ch : Nat) : Desc where
  ti := tiRx
  src := c.pcmFifoBus
  dst := BitVec.ofNat 32 (slotAddr (c.inBase k) p ch)
  len := 4#32
  stride := 0#32
  next := c.nextAddr (c.descIdx k p ch 0)
  rsv0 := 0#32
  rsv1 := 0#32

/-- The write descriptor of `(k, p, ch)` (41 R143). -/
def Cfg.writeDesc (c : Cfg) (k p ch : Nat) : Desc where
  ti := tiTx
  src := BitVec.ofNat 32 (slotAddr (c.outBase k) p ch)
  dst := c.pcmFifoBus
  len := 4#32
  stride := 0#32
  next := c.nextAddr (c.descIdx k p ch 1)
  rsv0 := 0#32
  rsv1 := 0#32

/-- The descriptor the builder writes in slot `i` (41 R141 to R143): the loop nest of R141 read back
from the slot's number. -/
def Cfg.chainDesc (c : Cfg) (i : Nat) : Desc :=
  let ch := i / 2 % nbrChannels
  let p := i / 2 / nbrChannels % c.blockSize
  let k := i / 2 / nbrChannels / c.blockSize
  if i % 2 = 0 then c.readDesc k p ch else c.writeDesc k p ch

/-- Word `j` of a descriptor (30 R91). -/
def descWord (d : Desc) (j : Nat) : Word :=
  match j with
  | 0 => d.ti
  | 1 => d.src
  | 2 => d.dst
  | 3 => d.len
  | 4 => d.stride
  | 5 => d.next
  | 6 => d.rsv0
  | _ => d.rsv1

/-- The tuple that identifies a descriptor (00_scope R9 and glossary, 41 R148). -/
structure Position where
  buffer : Fin 2
  frame  : Nat
  chan   : Nat
  dir    : Nat
  deriving DecidableEq, Repr, Inhabited

/-- `decode_position(a)` against a table of two bases: linear search, then offset arithmetic
(41 R148). -/
def decodePosition (c : Cfg) (base0 base1 a : Nat) : Option Position :=
  let pos (k : Fin 2) (off : Nat) : Position :=
    { buffer := k
      frame := off / (2 * nbrChannels)
      chan := off / 2 % nbrChannels
      dir := off % 2 }
  if base0 ≤ a ∧ a < base0 + 32 * c.descPerBuf then
    some (pos 0 ((a - base0) / 32))
  else if base1 ≤ a ∧ a < base1 + 32 * c.descPerBuf then
    some (pos 1 ((a - base1) / 32))
  else none

/-- The words select `XFER.RX` (30 R94). -/
def Desc.isRx (c : Cfg) (d : Desc) : Bool :=
  d.ti &&& tiMask == 0x00030400#32 && d.src == c.pcmFifoBus && c.isSlot d.dst.toNat &&
  d.len == 4#32 && d.stride == 0#32

/-- The words select `XFER.TX` (30 R94). -/
def Desc.isTx (c : Cfg) (d : Desc) : Bool :=
  d.ti &&& tiMask == 0x00020040#32 && d.dst == c.pcmFifoBus && c.isSlot d.src.toNat &&
  d.len == 4#32 && d.stride == 0#32

/-- `TI.INTEN` (30 R92). -/
def tiInten (ti : Word) : Bool := ti.getLsbD 0

/-- `TI.PERMAP` (30 R92, R96). -/
def tiPermap (ti : Word) : BitVec 5 := ti.extractLsb' 16 5

/-- The descriptor's transfer is paced: `SRC_DREQ` or `DEST_DREQ` (30 R92). -/
def tiPaced (ti : Word) : Bool := ti.getLsbD 6 || ti.getLsbD 10

/-- Pin of field `field` of function register `reg` (10_state R28, 40 R125). -/
def fieldPin (reg field : Nat) : Nat := 10 * reg + field

/-- A function word with the 3-bit field `field` replaced (40 R125). -/
def setFnField (old : Word) (field : Nat) (f : BitVec 3) : Word :=
  (old &&& ~~~(7#32 <<< (3 * field))) ||| ((f.setWidth 32) <<< (3 * field))

/-- The 3-bit function code held in field `field` of a function word (10_state R28). -/
def fnField (w : Word) (field : Nat) : BitVec 3 := w.extractLsb' (3 * field) 3

/-- A word of a bank of 32 pins placed among the 64 pins (10_state R28). -/
def bankMask (bank : Fin 2) (v : Word) : BitVec 64 := (v.setWidth 64) <<< (32 * bank.val)

/-- `sext_24` (00_scope R6). -/
def sext24 (v : BitVec 24) : Word := v.signExtend 32

/-- `zext_24` (00_scope R6). -/
def zext24 (v : BitVec 24) : Word := v.setWidth 32

/-- The bits that `mask` has set from `known`, the others from the free word (10_state R15, R17, R20:
`any value`). -/
def mixFree (mask known free : Word) : Word := (known &&& mask) ||| (free &&& ~~~mask)

/-- Little-endian bytes of a word (20 R72): byte `n` holds bits `8n+7 : 8n`. -/
def wordByte (w : Word) (n : Nat) : Byte := w.extractLsb' (8 * n) 8

/-- The word whose byte `n` is the n-th argument (20 R72). -/
def wordOfBytes (b0 b1 b2 b3 : Byte) : Word := b3 ++ b2 ++ b1 ++ b0

end Sys2Proof
end

