-- ==== Sys2Proof/WellFormed.lean ====
section
/-! DEFINITION. Well-formed configurations (00_scope R10) and well-formed instructions: the encoding
conditions of 30_encoding R94 and R100 that the constructors' types do not already carry. -/

namespace Sys2Proof

/-- Every window reaches the registers 30_encoding R100 lists in it (20 R60 `WIN_SIZE`; the default
4096 does). -/
def Cfg.windowsHold (c : Cfg) : Bool :=
  decide (0xA0 ≤ c.winGpio) && decide (0x20 ≤ c.winPcm) && decide (0x1000 ≤ c.winDma)

/-- The block and `[a, a+n)` do not meet. -/
def Cfg.apart (c : Cfg) (a n : Nat) : Bool :=
  decide (n = 0) || decide (c.blockBus.toNat + c.blockLen ≤ a) || decide (a + n ≤ c.blockBus.toNat)

/-- A well-formed configuration (00_scope R10; the counts of buffers and channels are fixed at 2). The
windows' bus bases are parameters (20 R62; log 39). -/
def Cfg.wf (c : Cfg) : Bool :=
  decide (1 ≤ c.blockSize) && decide (c.blockBus.toNat % 32 = 0) &&
  decide (c.blockBus.toNat + c.blockLen ≤ 2 ^ 32) &&
  c.apart c.pcmFifoBus.toNat 4 && c.apart c.gpioBus.toNat c.winGpio &&
  c.apart c.pcmBus.toNat c.winPcm && c.apart c.dmaBus.toNat c.winDma &&
  decide (0 < c.prefillWords) && decide (c.prefillWords % nbrChannels = 0) &&
  decide (c.prefillWords ≤ c.fifoDepth) &&
  decide (1 ≤ c.rxReqLevel) && decide (c.rxReqLevel ≤ c.fifoDepth) &&
  decide (1 ≤ c.txReqLevel) && decide (c.txReqLevel ≤ c.fifoDepth) &&
  decide (c.prefillWords < c.txReqLevel)

/-- A well-formed instruction of a machine with configuration `c`: a descriptor constructor carries
words of its own kind (30 R94), a write to DMA `CS` carries data bits of its own row (30 R100). -/
def WellFormed (c : Cfg) : Instr → Bool
  | .xferRx d => d.isRx c
  | .xferTx d => !d.isRx c && d.isTx c
  | .xferOther d => !d.isRx c && !d.isTx c
  | .dmaReset _ v => v.getLsbD 31
  | .dmaAbort _ v => !v.getLsbD 31 && v.getLsbD 30
  | .dmaGo _ v => !v.getLsbD 31 && !v.getLsbD 30 && v.getLsbD 0
  | .dmaPause _ v => !v.getLsbD 31 && !v.getLsbD 30 && !v.getLsbD 0
  | .dmaRdcs _ | .dmaRdpos _ | .dmaSetcb _ _ | .dmaRdti _ | .dmaRdsrc _ | .dmaRddst _
  | .dmaRdlen _ | .dmaRdstride _ | .dmaRdnext _ | .dmaRddbg _ | .dmaClrdbg _ _
  | .pcmRdcs | .pcmWrcs _ | .pcmRdfifo | .pcmWrfifo _ | .pcmRdmode | .pcmWrmode _
  | .pcmRdrxc | .pcmWrrxc _ | .pcmRdtxc | .pcmWrtxc _ | .pcmRddreq | .pcmWrdreq _
  | .pcmRdinten | .pcmWrinten _ | .pcmRdintstc | .pcmWrintstc _
  | .gpioSetfn _ _ _ | .gpioSet _ _ | .gpioClr _ _ | .gpioRead _ | .gpioPud _ | .gpioPudclk _ _
  | .cvtI2f _ | .cvtI2fV4 _ _ _ _ | .cvtF2i _ | .cvtF2iV4 _ _ _ _ => true

end Sys2Proof
end

