-- ==== Sys2Proof/Decode.lean ====
section
/-! DEFINITION. The decoder of the three formats (30_encoding R90 to R102) and, after it, the encoder.
Decoding is total; what the tables do not list is rejected by name (40 R122, R123). -/

namespace Sys2Proof

/-- Why a register transaction's tuple is no instruction (40 R122, R123; 30 R99). -/
inductive DecodeError where
  /-- `window` code 3 (R99). -/
  | windowIllegal
  /-- `kind` code 3, or `rmw` outside the GPIO window (R99). -/
  | kindIllegal
  /-- `offset mod 4 ≠ 0` (R122). -/
  | misaligned
  /-- `offset ≥ WIN_SIZE[w]` (R122). -/
  | outOfWindow
  /-- an aligned, in-window offset that R100 does not list (R123). -/
  | unlisted
  /-- `rmw` data with a bit outside `data[2:0]`, `data[7:4]` set (R99). -/
  | setfnData
  /-- `rmw` field number above 9 (R99). -/
  | setfnField
  deriving DecidableEq, Repr, Inhabited

/-- An instruction in the form its agent meets it: a descriptor's eight words, the 49-bit tuple of a
transaction, the selector of a converter operation with its operand words (30 R90, R99, R101). -/
inductive Encoded where
  | desc (d : Desc)
  | reg (w : BitVec 49)
  | cvt (sel : BitVec 2) (w0 w1 w2 w3 : Word)
  deriving DecidableEq, Repr, Inhabited

/-- The fields of the tuple (30 R99). -/
structure RegTuple where
  win  : BitVec 2
  kind : BitVec 2
  off  : BitVec 13
  data : Word
  deriving DecidableEq, Repr, Inhabited

/-- The tuple of 49 bits (30 R99). -/
def regFields (w : BitVec 49) : RegTuple where
  win := w.extractLsb' 47 2
  kind := w.extractLsb' 45 2
  off := w.extractLsb' 32 13
  data := w.extractLsb' 0 32

/-- The inverse of `regFields` (30 R99). -/
def regPack (t : RegTuple) : BitVec 49 := t.win ++ t.kind ++ t.off ++ t.data

/-- Classification of a descriptor (30 R94). -/
def decodeDesc (c : Cfg) (d : Desc) : Instr :=
  if d.isRx c then .xferRx d
  else if d.isTx c then .xferTx d
  else .xferOther d

/-- A write to DMA `CS`, classified by its data bits in the priority of 30 R100. -/
def decodeDmaCs (ch : BitVec 4) (v : Word) : Instr :=
  if v.getLsbD 31 then .dmaReset ch v
  else if v.getLsbD 30 then .dmaAbort ch v
  else if v.getLsbD 0 then .dmaGo ch v
  else .dmaPause ch v

/-- The DMA window (30 R100): `offset[7:0]` selects the register, `offset[11:8]` the channel. -/
def decodeDma (kind : BitVec 2) (off : BitVec 13) (v : Word) : Except DecodeError Instr :=
  let ch : BitVec 4 := off.extractLsb' 8 4
  if off.getLsbD 12 then .error .unlisted
  else match kind.toNat, (off.extractLsb' 0 8).toNat with
  | 0, 0x00 => .ok (.dmaRdcs ch)
  | 1, 0x00 => .ok (decodeDmaCs ch v)
  | 0, 0x04 => .ok (.dmaRdpos ch)
  | 1, 0x04 => .ok (.dmaSetcb ch v)
  | 0, 0x08 => .ok (.dmaRdti ch)
  | 0, 0x0C => .ok (.dmaRdsrc ch)
  | 0, 0x10 => .ok (.dmaRddst ch)
  | 0, 0x14 => .ok (.dmaRdlen ch)
  | 0, 0x18 => .ok (.dmaRdstride ch)
  | 0, 0x1C => .ok (.dmaRdnext ch)
  | 0, 0x20 => .ok (.dmaRddbg ch)
  | 1, 0x20 => .ok (.dmaClrdbg ch v)
  | _, _ => .error .unlisted

/-- The PCM window (30 R100). -/
def decodePcm (kind : BitVec 2) (off : BitVec 13) (v : Word) : Except DecodeError Instr :=
  match kind.toNat, off.toNat with
  | 0, 0x00 => .ok .pcmRdcs
  | 1, 0x00 => .ok (.pcmWrcs v)
  | 0, 0x04 => .ok .pcmRdfifo
  | 1, 0x04 => .ok (.pcmWrfifo v)
  | 0, 0x08 => .ok .pcmRdmode
  | 1, 0x08 => .ok (.pcmWrmode v)
  | 0, 0x0C => .ok .pcmRdrxc
  | 1, 0x0C => .ok (.pcmWrrxc v)
  | 0, 0x10 => .ok .pcmRdtxc
  | 1, 0x10 => .ok (.pcmWrtxc v)
  | 0, 0x14 => .ok .pcmRddreq
  | 1, 0x14 => .ok (.pcmWrdreq v)
  | 0, 0x18 => .ok .pcmRdinten
  | 1, 0x18 => .ok (.pcmWrinten v)
  | 0, 0x1C => .ok .pcmRdintstc
  | 1, 0x1C => .ok (.pcmWrintstc v)
  | _, _ => .error .unlisted

/-- The `rmw` data of `GPIO.SETFN` (30 R99): `data[2:0]` the code, `data[7:4]` the field number, every
other bit 0. DEDUCED (log 32): a tuple with another bit set, or with a field number above 9, is no
instruction and is refused. -/
def decodeSetfn (reg : Fin 6) (v : Word) : Except DecodeError Instr :=
  if v &&& 0xFFFFFF08#32 ≠ 0#32 then .error .setfnData
  else if h : (v.extractLsb' 4 4).toNat < 10 then
    .ok (.gpioSetfn reg ⟨(v.extractLsb' 4 4).toNat, h⟩ (v.extractLsb' 0 3))
  else .error .setfnField

/-- The GPIO window (30 R100). -/
def decodeGpio (kind : BitVec 2) (off : BitVec 13) (v : Word) : Except DecodeError Instr :=
  match kind.toNat, off.toNat with
  | 2, 0x00 => decodeSetfn 0 v
  | 2, 0x04 => decodeSetfn 1 v
  | 2, 0x08 => decodeSetfn 2 v
  | 2, 0x0C => decodeSetfn 3 v
  | 2, 0x10 => decodeSetfn 4 v
  | 2, 0x14 => decodeSetfn 5 v
  | 1, 0x1C => .ok (.gpioSet 0 v)
  | 1, 0x20 => .ok (.gpioSet 1 v)
  | 1, 0x28 => .ok (.gpioClr 0 v)
  | 1, 0x2C => .ok (.gpioClr 1 v)
  | 0, 0x34 => .ok (.gpioRead 0)
  | 0, 0x38 => .ok (.gpioRead 1)
  | 1, 0x94 => .ok (.gpioPud v)
  | 1, 0x98 => .ok (.gpioPudclk 0 v)
  | 1, 0x9C => .ok (.gpioPudclk 1 v)
  | _, _ => .error .unlisted

/-- `WIN_SIZE[w]` (20 R60). -/
def Cfg.winSize (c : Cfg) (win : BitVec 2) : Nat :=
  if win = 0#2 then c.winGpio else if win = 1#2 then c.winPcm else c.winDma

/-- Decoding of a register transaction: the preconditions of 40 R122, then the table of 30 R100. -/
def decodeReg (c : Cfg) (w : BitVec 49) : Except DecodeError Instr :=
  let t := regFields w
  if t.win = 3#2 then .error .windowIllegal
  else if t.kind = 3#2 ∨ (t.kind = 2#2 ∧ t.win ≠ 0#2) then .error .kindIllegal
  else if t.off.extractLsb' 0 2 ≠ 0#2 then .error .misaligned
  else if c.winSize t.win ≤ t.off.toNat then .error .outOfWindow
  else if t.win = 0#2 then decodeGpio t.kind t.off t.data
  else if t.win = 1#2 then decodePcm t.kind t.off t.data
  else decodeDma t.kind t.off t.data

/-- Decoding of a converter operation (30 R101): `dir vec`. -/
def decodeCvt (sel : BitVec 2) (w0 w1 w2 w3 : Word) : Instr :=
  if sel = 0#2 then .cvtI2f w0
  else if sel = 1#2 then .cvtI2fV4 w0 w1 w2 w3
  else if sel = 2#2 then .cvtF2i w0
  else .cvtF2iV4 w0 w1 w2 w3

/-- The decoder. -/
def decode (c : Cfg) : Encoded → Except DecodeError Instr
  | .desc d => .ok (decodeDesc c d)
  | .reg w => decodeReg c w
  | .cvt sel w0 w1 w2 w3 => .ok (decodeCvt sel w0 w1 w2 w3)

/-- The next four bytes of a list as a word, a missing byte read as 0 (20 R72). -/
def takeWord : List Byte → Word × List Byte
  | b0 :: b1 :: b2 :: b3 :: r => (wordOfBytes b0 b1 b2 b3, r)
  | [b0, b1, b2] => (wordOfBytes b0 b1 b2 0#8, [])
  | [b0, b1] => (wordOfBytes b0 b1 0#8 0#8, [])
  | [b0] => (wordOfBytes b0 0#8 0#8 0#8, [])
  | [] => (0#32, [])

/-- A descriptor as its bytes lie in memory, first word first (30 R91, 20 R72). -/
def descOfBytes (bs : List Byte) : Desc :=
  let (w0, bs) := takeWord bs
  let (w1, bs) := takeWord bs
  let (w2, bs) := takeWord bs
  let (w3, bs) := takeWord bs
  let (w4, bs) := takeWord bs
  let (w5, bs) := takeWord bs
  let (w6, bs) := takeWord bs
  let (w7, _) := takeWord bs
  { ti := w0, src := w1, dst := w2, len := w3, stride := w4, next := w5, rsv0 := w6, rsv1 := w7 }

/-- The `n` low bytes of a number, least significant first. -/
def natBytes : Nat → Nat → List Byte
  | 0, _ => []
  | n + 1, w => BitVec.ofNat 8 w :: natBytes n (w / 256)

/-- The tuple as the bytes of a memory dump (D32: bookkeeping only), 7 bytes. -/
def regOfBytes (bs : List Byte) : BitVec 49 :=
  BitVec.ofNat 49 ((bs.take 7).foldr (fun b n => n * 256 + b.toNat) 0)

/-- The encoded instruction whose bits are `w`, numbered as spec/opcode_table.json numbers them, from
the number of bits the table gives the row: 2 for a converter selector, 32 for the `ti` word of a
descriptor (256 for a whole one), 49 for a tuple. -/
def tableEncoded (nbits w : Nat) : Encoded :=
  if nbits ≤ 8 then .cvt (BitVec.ofNat 2 w) 0#32 0#32 0#32 0#32
  else if nbits ≤ 32 ∨ 64 < nbits then .desc (descOfBytes (natBytes 32 w))
  else .reg (regOfBytes (natBytes 7 w))

/-- What the decoder, with the configuration of the reset state, reads from the row's bits. -/
def decodeTableWord (nbits w : Nat) : Option Instr :=
  match decode Cfg.default (tableEncoded nbits w) with
  | .ok i => some i
  | .error _ => none

/-- A tuple of the DMA window: offset `0x100 × channel + o` (30 R99). -/
def dmaTuple (ch : BitVec 4) (kind : BitVec 2) (o : BitVec 8) (v : Word) : RegTuple where
  win := 2#2
  kind := kind
  off := 0#1 ++ ch ++ o
  data := v

/-- A tuple of the PCM window. -/
def pcmTuple (kind : BitVec 2) (o : BitVec 13) (v : Word) : RegTuple where
  win := 1#2
  kind := kind
  off := o
  data := v

/-- A tuple of the GPIO window. -/
def gpioTuple (kind : BitVec 2) (o : BitVec 13) (v : Word) : RegTuple where
  win := 0#2
  kind := kind
  off := o
  data := v

/-- The encoder (30 R91, R99, R100, R101). -/
def encode : Instr → Encoded
  | .xferRx d => .desc d
  | .xferTx d => .desc d
  | .xferOther d => .desc d
  | .dmaRdcs ch => .reg (regPack (dmaTuple ch 0#2 0x00#8 0#32))
  | .dmaReset ch v => .reg (regPack (dmaTuple ch 1#2 0x00#8 v))
  | .dmaAbort ch v => .reg (regPack (dmaTuple ch 1#2 0x00#8 v))
  | .dmaGo ch v => .reg (regPack (dmaTuple ch 1#2 0x00#8 v))
  | .dmaPause ch v => .reg (regPack (dmaTuple ch 1#2 0x00#8 v))
  | .dmaRdpos ch => .reg (regPack (dmaTuple ch 0#2 0x04#8 0#32))
  | .dmaSetcb ch a => .reg (regPack (dmaTuple ch 1#2 0x04#8 a))
  | .dmaRdti ch => .reg (regPack (dmaTuple ch 0#2 0x08#8 0#32))
  | .dmaRdsrc ch => .reg (regPack (dmaTuple ch 0#2 0x0C#8 0#32))
  | .dmaRddst ch => .reg (regPack (dmaTuple ch 0#2 0x10#8 0#32))
  | .dmaRdlen ch => .reg (regPack (dmaTuple ch 0#2 0x14#8 0#32))
  | .dmaRdstride ch => .reg (regPack (dmaTuple ch 0#2 0x18#8 0#32))
  | .dmaRdnext ch => .reg (regPack (dmaTuple ch 0#2 0x1C#8 0#32))
  | .dmaRddbg ch => .reg (regPack (dmaTuple ch 0#2 0x20#8 0#32))
  | .dmaClrdbg ch v => .reg (regPack (dmaTuple ch 1#2 0x20#8 v))
  | .pcmRdcs => .reg (regPack (pcmTuple 0#2 0x00#13 0#32))
  | .pcmWrcs v => .reg (regPack (pcmTuple 1#2 0x00#13 v))
  | .pcmRdfifo => .reg (regPack (pcmTuple 0#2 0x04#13 0#32))
  | .pcmWrfifo v => .reg (regPack (pcmTuple 1#2 0x04#13 v))
  | .pcmRdmode => .reg (regPack (pcmTuple 0#2 0x08#13 0#32))
  | .pcmWrmode v => .reg (regPack (pcmTuple 1#2 0x08#13 v))
  | .pcmRdrxc => .reg (regPack (pcmTuple 0#2 0x0C#13 0#32))
  | .pcmWrrxc v => .reg (regPack (pcmTuple 1#2 0x0C#13 v))
  | .pcmRdtxc => .reg (regPack (pcmTuple 0#2 0x10#13 0#32))
  | .pcmWrtxc v => .reg (regPack (pcmTuple 1#2 0x10#13 v))
  | .pcmRddreq => .reg (regPack (pcmTuple 0#2 0x14#13 0#32))
  | .pcmWrdreq v => .reg (regPack (pcmTuple 1#2 0x14#13 v))
  | .pcmRdinten => .reg (regPack (pcmTuple 0#2 0x18#13 0#32))
  | .pcmWrinten v => .reg (regPack (pcmTuple 1#2 0x18#13 v))
  | .pcmRdintstc => .reg (regPack (pcmTuple 0#2 0x1C#13 0#32))
  | .pcmWrintstc v => .reg (regPack (pcmTuple 1#2 0x1C#13 v))
  | .gpioSetfn reg field f =>
      .reg (regPack (gpioTuple 2#2 (BitVec.ofNat 13 (4 * reg.val)) (BitVec.ofNat 24 0 ++ BitVec.ofNat 4 field.val ++ 0#1 ++ f)))
  | .gpioSet bank v => .reg (regPack (gpioTuple 1#2 (BitVec.ofNat 13 (0x1C + 4 * bank.val)) v))
  | .gpioClr bank v => .reg (regPack (gpioTuple 1#2 (BitVec.ofNat 13 (0x28 + 4 * bank.val)) v))
  | .gpioRead bank => .reg (regPack (gpioTuple 0#2 (BitVec.ofNat 13 (0x34 + 4 * bank.val)) 0#32))
  | .gpioPud v => .reg (regPack (gpioTuple 1#2 0x94#13 v))
  | .gpioPudclk bank v => .reg (regPack (gpioTuple 1#2 (BitVec.ofNat 13 (0x98 + 4 * bank.val)) v))
  | .cvtI2f w => .cvt 0#2 w 0#32 0#32 0#32
  | .cvtI2fV4 w0 w1 w2 w3 => .cvt 1#2 w0 w1 w2 w3
  | .cvtF2i f => .cvt 2#2 f 0#32 0#32 0#32
  | .cvtF2iV4 f0 f1 f2 f3 => .cvt 3#2 f0 f1 f2 f3

end Sys2Proof
end

