-- ==== Sys2Proof/Machine/State.lean ====
section
/-! DEFINITION. The machine's state as plain data (10_state), the reasons a step can stop, the machine
right after reset (10_state R34, 70 R330). -/

namespace Sys2Proof.Machine

/-- The model faults of 60 R307. Each is RECORDED in State and never cleared (00_scope R8); no step
answers with one, so the rest of the machine goes on (log 7). -/
inductive Fault where
  /-- A beat whose memory-side address is unaligned or outside the block; recorded by the engine
  (42 R169); safe: the engine has no further step. -/
  | dmaBusError
  /-- A descriptor address that is not a multiple of 32 or leaves the block, or, where the configuration
  asks it, is no descriptor slot; recorded by the engine's load (20 R68, R71; log 11); safe: the engine has no further step. -/
  | dmaBadDescriptorAddress
  /-- `CONBLK_AD` outside every buffer's descriptor range; recorded by loop steps 2 and 7 (41 R148);
  safe: the loop has no next step. -/
  | positionUndecodable
  deriving DecidableEq, Repr, Inhabited

/-- The operations the spec gives no meaning (`refuse`, 00_scope R8). All are safe: the model stops
where a chip would do something the spec does not describe. -/
inductive Refusal where
  /-- raised by an arm of `exec` that has no meaning yet; safe -/
  | notModelled (mnemonic : String)
  /-- raised by a loaded descriptor that is neither XFER.RX nor XFER.TX (42 R168); safe -/
  | xferOther
  /-- raised by an issued tuple that is no instruction (40 R122, R123), a transaction of a HOST sequence
  outside its window included; safe -/
  | badEncoding (e : DecodeError)
  /-- raised by a transaction on another DMA channel's registers (40 R123, log 13); safe -/
  | otherDmaChannel
  /-- raised by a write of 1 to a reserved bit of DMA CS, CS_A, MODE_A, DREQ_A, INTEN_A (93 U21); safe -/
  | reservedBit
  /-- raised by DMA.SETCB while the channel is active (42 R170); safe -/
  | setcbActive
  /-- raised by a FIFO access of HOST or register programming with EN = 0 (43 R194, 93 U20); safe -/
  | pcmDisabled
  /-- raised by a read of FIFO_A with rxfifo empty (43 R198); safe -/
  | rxFifoEmpty
  /-- raised by a write of FIFO_A with txfifo full (43 R199); safe -/
  | txFifoFull
  /-- raised by PCM.WRMODE with FTXP, FRXP or PDME set (43 R200); safe -/
  | packedMode
  /-- raised by PCM.WRRXC and PCM.WRTXC enabling a channel of another width than 24 (43 R201); safe -/
  | channelWidth
  /-- raised by GPIO.SETFN on a pin the SoC does not have (40 R125) and by GPIO.WRITE,
  GPIO.READ and GPIO.PULL on a pin of no listed register, 64 or above (40 R123); safe -/
  | noSuchPin
  /-- raised by a HOST memory access outside the block or unaligned (20 R66, R67); safe -/
  | hostAddress
  /-- raised by a HOST write to a slot of the live half (20 R75); safe -/
  | liveHalfWrite
  /-- raised by a HOST write to the descriptor area while the channel is active (20 R78); safe -/
  | descriptorWrite
  /-- raised by a lifecycle operation in the wrong state (44 R230, D49; log 25); safe -/
  | lifecycle
  deriving DecidableEq, Repr, Inhabited

/-- Hidden engine phase (10_state R18). -/
inductive Phase where
  | idle
  | needLoad
  | loaded
  | latched
  deriving DecidableEq, Repr, Inhabited

/-- The DMA channel (10_state R14 to R18). `opts` holds PRIORITY, PANIC_PRIORITY,
WAIT_FOR_OUTSTANDING_WRITES and DISDEBUG in their places in `CS`; `CS.ERROR` is computed. -/
structure DmaState where
  active    : Bool
  endF      : Bool
  intF      : Bool
  opts      : Word
  conblkAd  : Word
  ti        : Word
  sourceAd  : Word
  destAd    : Word
  txfrLen   : Word
  stride    : Word
  nextconbk : Word
  debugErr  : BitVec 3
  phase     : Phase
  latch     : Word
  deriving DecidableEq, Repr, Inhabited

/-- A word slot of the serial side: frame and channel index (43 R212). -/
structure Slot where
  frame : Nat
  chan  : Fin 2
  deriving DecidableEq, Repr, Inhabited

/-- The PCM peripheral (10_state R19 to R27). `csStored` holds the read-write fields of `CS_A` in
their places. `rxPos`, `txPos` are the first slots no event of that direction has passed (43 R212). -/
structure PcmState where
  csStored : Word
  txErr    : Bool
  rxErr    : Bool
  modeA    : Word
  rxcA     : Word
  txcA     : Word
  dreqA    : Word
  intenA   : Word
  rxfifo   : List Word
  txfifo   : List Word
  rxPos    : Slot
  txPos    : Slot
  deriving DecidableEq, Repr, Inhabited

/-- GPIO (10_state R28): the six function words, output levels, pull control register, pull settings. -/
structure GpioState where
  fsel    : List Word
  out     : BitVec 64
  pullCtl : Word
  pull    : List Pull
  deriving DecidableEq, Repr, Inhabited

/-- One set of staging buffers, an array of binary32 words per channel (10_state R30). -/
structure Stage where
  ch0 : List Word
  ch1 : List Word
  deriving DecidableEq, Repr, Inhabited

/-- `state` of 10_state R32. -/
inductive TState where
  | stopped
  | running
  deriving DecidableEq, Repr, Inhabited

/-- What `last_error` names (60 R300, 44 R233; log 29). -/
inductive Diag where
  | none
  | outOfKernelMemory
  | cannotLock
  | cannotMap
  | configChannels
  | codecFailed
  deriving DecidableEq, Repr, Inhabited

/-- The value last returned to HOST or to the owning application (log 21). -/
inductive HostResult where
  | none
  | word (w : Word)
  | vec (w0 w1 w2 w3 : Word)
  | position (p : Option Position)
  | ok
  | error (d : Diag)
  | initOk (sampleRate maxBlockSize : Nat)
  | diag (d : Diag)
  deriving DecidableEq, Repr, Inhabited

/-- One step of a HOST sequence (44 R231 to R247, 30 R104). An operation over many words handles one
word a step and goes on with the next (log 27). -/
inductive HostOp where
  /-- one register transaction -/
  | run (i : Instr)
  /-- PCM.WRCS of the stored fields with `clr` cleared and `set` set (30 R103; log 22) -/
  | csWrite (clr set : Word)
  /-- the start of START step 1: the codec reset, its clock gone (44 R233, 70 R342) -/
  | codecReset
  /-- START steps 1 and 2, answered by the codec side channel (44 R234) -/
  | codecBringUp
  /-- word `i` of the Sample Region ← 0 (44 R232) -/
  | clearRegion (i : Nat)
  /-- word `i` of the descriptor area (41 R151) -/
  | chainBuild (i : Nat)
  /-- record `desc_base` (41 R145) -/
  | chainBases
  /-- START step 9 (44 R233) -/
  | startDone
  /-- the end of STOP (44 R235) -/
  | stopDone
  /-- loop head (44 R240) -/
  | loopHead
  /-- PIPE.IN, word `i` of input buffer `k` (45 R280) -/
  | pipeIn (k : Fin 2) (i : Nat)
  /-- PIPE.CALL (45 R281) -/
  | pipeCall
  /-- PIPE.OUT, word `i` of output buffer `k` (45 R282) -/
  | pipeOut (k : Fin 2) (i : Nat)
  /-- loop step 2 (44 R242) -/
  | readPosition
  /-- loop step 3, the read (44 R243) -/
  | readStatus
  /-- loop step 3, the clearing write (44 R243) -/
  | clearErrors
  /-- loop step 4 (44 R244) -/
  | adopt
  /-- loop step 5 (44 R245) -/
  | notify
  /-- loop step 6 (44 R246) -/
  | sleep
  /-- loop step 7 (44 R247) -/
  | busyPoll
  /-- diagnostic read of the position (44 R249) -/
  | position
  /-- diagnostic snapshot, word `i` of the input buffers (44 R249) -/
  | snapshot (i : Nat)
  /-- GPIO.READ of one pin (40 R129) -/
  | gpioLevel (pin : Nat)
  /-- GPIO.PULL in one step (40 R130) -/
  | gpioPull (pin : Nat) (mode : Pull)
  deriving DecidableEq, Repr, Inhabited

/-- HOST's variables (10_state R30, R32), its loop locals (44 R238 to R247) and its pending operations.
`inited`: the last INIT succeeded, so the transport is usable (44 R231); `everInited`: some INIT has (92
D49). -/
structure HostState where
  tstate   : TState
  inited   : Bool
  everInited : Bool
  curBuf   : Fin 2
  descBase0 : Word
  descBase1 : Word
  exitFlag : Bool
  exitRequested : Bool
  lastError : Diag
  dropouts : Nat
  err      : Bool
  hwBuf    : Fin 2
  hwFrame  : Nat
  hwChan   : Nat
  pollCs   : Word
  slept    : Bool
  stageIn  : Stage
  stageOut : Stage
  ops      : List HostOp
  result   : HostResult
  snap     : List Word
  race     : Bool
  loopFault : Option Fault
  deriving DecidableEq, Repr, Inhabited

/-- One word sent to the codec (10_state R33, 43 R215). -/
structure OutWord where
  slot  : Slot
  value : BitVec 24
  deriving DecidableEq, Repr, Inhabited

/-- The environment: the schedule still to be taken, whether the codec has come through START's steps 1
and 2, its clock, `codec_out` oldest first, the counter of the free values. -/
structure EnvState where
  sched    : List Turn
  codecUp  : Bool
  codecClk : Bool
  codecOut : List OutWord
  draws    : Nat
  deriving DecidableEq, Repr, Inhabited

/-- The whole machine. `mem` is the block's memory, (address, byte) pairs in canonical form. -/
structure State where
  cfg      : Cfg
  dma      : DmaState
  dmaFault : Option Fault
  pcm      : PcmState
  gpio     : GpioState
  mem      : List Host.Cell
  host     : HostState
  env      : EnvState
  deriving DecidableEq, Repr, Inhabited

/-- The machine right after reset: power-on, before `init` (10_state R34, 70 R330). CS.ACTIVE = 0,
Stopped, the exit flags false, dropouts 0 and the error flags 0 are the spec's; every other value is
unspecified there and is the model's choice (log 6). -/
def State.reset : State where
  cfg := Cfg.default
  dma :=
    { active := false, endF := false, intF := false, opts := 0#32, conblkAd := 0#32, ti := 0#32
      sourceAd := 0#32, destAd := 0#32, txfrLen := 0#32, stride := 0#32, nextconbk := 0#32
      debugErr := 0#3, phase := .idle, latch := 0#32 }
  dmaFault := none
  pcm :=
    { csStored := 0#32, txErr := false, rxErr := false, modeA := 0#32, rxcA := 0#32, txcA := 0#32
      dreqA := 0#32, intenA := 0#32, rxfifo := [], txfifo := [], rxPos := ⟨0, 0⟩, txPos := ⟨0, 0⟩ }
  gpio :=
    { fsel := List.replicate 6 0#32, out := 0#64, pullCtl := 0#32, pull := List.replicate 64 .none }
  mem := []
  host :=
    { tstate := .stopped, inited := false, everInited := false, curBuf := 0, descBase0 := 0#32
      descBase1 := 0#32
      exitFlag := false, exitRequested := false, lastError := .none, dropouts := 0, err := false
      hwBuf := 0, hwFrame := 0, hwChan := 0, pollCs := 0#32, slept := false
      stageIn := ⟨List.replicate 64 0#32, List.replicate 64 0#32⟩
      stageOut := ⟨List.replicate 64 0#32, List.replicate 64 0#32⟩
      ops := [], result := .none, snap := [], race := false, loopFault := none }
  env := { sched := [], codecUp := false, codecClk := false, codecOut := [], draws := 0 }

end Sys2Proof.Machine
end

