-- ==== Sys2Proof/Machine/Flags.lean ====
section
/-! DEFINITION. The fields of the status words and everything computed from them: `CS_A` (10_state R20),
DMA `CS` and `DEBUG` (R15, R17), the pacing signals (43 R209, R210), the next word event of the serial
side (43 R212), the checks on written words. -/

namespace Sys2Proof.Machine

/-- The read-write fields of `CS_A`: EN, RXON, TXON, TXTHR, RXTHR, DMAEN, RXSEX, SYNC, STBY (R20). -/
def csAStoredMask : Word := 0x038003E7#32

/-- The reserved bits 12:10, 31:26 of `CS_A` (R20). -/
def csAReserved : Word := 0xFC001C00#32

/-- The bits of `CS_A` a read defines: all but 13, 14, 17, 18, 24 and the reserved bits (43 R191). -/
def csADefined : Word := 0x02F983FF#32

/-- The reserved bits 7, 15:9, 27:24 of DMA `CS` (R15). -/
def dmaCsReserved : Word := 0x0F00FE80#32

/-- PRIORITY, PANIC_PRIORITY, WAIT_FOR_OUTSTANDING_WRITES, DISDEBUG in DMA `CS` (R15). -/
def dmaCsOpts : Word := 0x30FF0000#32

/-- The bits of DMA `CS` a read always defines: ACTIVE, END, INT, ERROR, the stored fields, and ABORT,
RESET which read 0 (R15). -/
def dmaCsDefined : Word := 0xF0FF0107#32

/-- FTXP, FRXP, PDME of `MODE_A` (R24). -/
def modePacked : Word := 0x07000000#32

/-- The reserved bits 31:29 of `MODE_A` (R24). -/
def modeReserved : Word := 0xE0000000#32

/-- The reserved bits 7, 15, 23, 31 of `DREQ_A` (R26). -/
def dreqReserved : Word := 0x80808080#32

/-- The bits of `INTEN_A` that are refused when written 1 (43 R204). -/
def intenReserved : Word := 0xFFFFFFF0#32

/-- `CS_A.EN`. -/
def PcmState.en (p : PcmState) : Bool := p.csStored.getLsbD 0

/-- `CS_A.RXON`. -/
def PcmState.rxon (p : PcmState) : Bool := p.csStored.getLsbD 1

/-- `CS_A.TXON`. -/
def PcmState.txon (p : PcmState) : Bool := p.csStored.getLsbD 2

/-- `CS_A.DMAEN`. -/
def PcmState.dmaen (p : PcmState) : Bool := p.csStored.getLsbD 9

/-- `CS_A.RXSEX`. -/
def PcmState.rxsex (p : PcmState) : Bool := p.csStored.getLsbD 23

/-- `DREQ_A.RX` (R26). -/
def PcmState.rxLevel (p : PcmState) : Nat := (p.dreqA.extractLsb' 0 7).toNat

/-- `DREQ_A.TX` (R26). -/
def PcmState.txLevel (p : PcmState) : Nat := (p.dreqA.extractLsb' 8 7).toNat

/-- `rx_dreq` (43 R209). -/
def State.rxDreq (s : State) : Bool :=
  s.pcm.en && s.pcm.dmaen && decide (max 1 s.pcm.rxLevel ≤ s.pcm.rxfifo.length)

/-- `tx_dreq` (43 R210). -/
def State.txDreq (s : State) : Bool :=
  s.pcm.en && s.pcm.dmaen && decide (s.pcm.txfifo.length < min s.cfg.fifoDepth s.pcm.txLevel)

/-- A flag in bit `n` of a word. -/
def flagBit (b : Bool) (n : Nat) : Word := (if b then 1#32 else 0#32) <<< n

/-- `CS_A` in the bits the model defines: the stored fields, TXERR, RXERR, TXD, RXD, TXE, RXF
(10_state R20, 43 R191). -/
def State.csAKnown (s : State) : Word :=
  s.pcm.csStored ||| flagBit s.pcm.txErr 15 ||| flagBit s.pcm.rxErr 16 |||
  flagBit (decide (s.pcm.txfifo.length < s.cfg.fifoDepth)) 19 |||
  flagBit (decide (1 ≤ s.pcm.rxfifo.length)) 20 |||
  flagBit (decide (s.pcm.txfifo.length = 0)) 21 |||
  flagBit (decide (s.pcm.rxfifo.length = s.cfg.fifoDepth)) 22

/-- What a read of `CS_A` returns, `free` filling the `any value` bits (43 R191). -/
def State.csAWord (s : State) (free : Word) : Word := mixFree csADefined s.csAKnown free

/-- `CS.ERROR`: any error bit of `DEBUG` is 1 (10_state R15, 42 R177). -/
def DmaState.error (d : DmaState) : Bool := d.debugErr != 0#3

/-- The working registers hold a descriptor (10_state R18). -/
def DmaState.isLoaded (d : DmaState) : Bool := d.phase == .loaded || d.phase == .latched

/-- `CS.DREQ`: the level the loaded `TI.PERMAP` selects, none where it is `any value` (10_state R15, 30
R96; log 20). -/
def State.csDreq (s : State) : Option Bool :=
  if s.dma.isLoaded && tiPaced s.dma.ti then
    if tiPermap s.dma.ti = 2#5 then some s.txDreq
    else if tiPermap s.dma.ti = 3#5 then some s.rxDreq
    else none
  else none

/-- What a read of DMA `CS` returns, `free` filling the `any value` bits (10_state R15, 42 R176). -/
def State.dmaCsWord (s : State) (free : Word) : Word :=
  let known := flagBit s.dma.active 0 ||| flagBit s.dma.endF 1 ||| flagBit s.dma.intF 2 |||
    flagBit s.dma.error 8 ||| s.dma.opts
  match s.csDreq with
  | some b => mixFree (dmaCsDefined ||| 8#32) (known ||| flagBit b 3) free
  | none => mixFree dmaCsDefined known free

/-- What a read of `DEBUG` returns: bits 2:0, the others `any value` (10_state R17, 42 R177). -/
def State.dmaDebugWord (s : State) (free : Word) : Word :=
  mixFree 7#32 (s.dma.debugErr.setWidth 32) free

/-- The enabled channels of `RXC_A` or `TXC_A` have width 24: `CHxWEX = 1`, `CHxWID = 0` (R25). -/
def widthsOk (v : Word) : Bool :=
  (!v.getLsbD 30 || (v.getLsbD 31 && v.extractLsb' 16 4 == 0#4)) &&
  (!v.getLsbD 14 || (v.getLsbD 15 && v.extractLsb' 0 4 == 0#4))

/-- Channel index `ch` (0 for PCM channel 1) is enabled in a channel register (R25, 43 R212). -/
def chanEn (v : Word) (ch : Fin 2) : Bool := if ch = 0 then v.getLsbD 30 else v.getLsbD 14

/-- Receive word events can happen: EN and RXON (43 R193). -/
def PcmState.rxRuns (p : PcmState) : Bool := p.en && p.rxon

/-- Transmit word events can happen: EN and TXON (43 R193). -/
def PcmState.txRuns (p : PcmState) : Bool := p.en && p.txon

/-- `(f, c)` before `(g, d)` in the order of word slots (43 R212 (a), (b)). -/
def Slot.before (a b : Slot) : Bool :=
  decide (a.frame < b.frame) || (decide (a.frame = b.frame) && decide (a.chan.val < b.chan.val))

/-- The slot after `a`. -/
def Slot.succ (a : Slot) : Slot := if a.chan = 0 then ⟨a.frame, 1⟩ else ⟨a.frame + 1, 0⟩

/-- The first slot from `pos` on whose channel is enabled (43 R212). -/
def nextSlot (chans : Word) (pos : Slot) : Option Slot :=
  if chanEn chans pos.chan then some pos
  else if chanEn chans pos.succ.chan then some pos.succ
  else none

/-- The receive word event that can happen now: clock, EN, RXON, an enabled channel, and constraint (c)
of 43 R212: the transmit event of the same slot, where there is one, has happened. -/
def State.rxEvent (s : State) : Option Slot :=
  if s.env.codecClk && s.pcm.rxRuns then
    match nextSlot s.pcm.rxcA s.pcm.rxPos with
    | some sl =>
      if s.pcm.txRuns && chanEn s.pcm.txcA sl.chan && !sl.before s.pcm.txPos then none else some sl
    | none => none
  else none

/-- The transmit word event that can happen now: clock, EN, TXON, an enabled channel, and constraint
(d) of 43 R212: the receive event two frames back, where there is one, has happened. -/
def State.txEvent (s : State) : Option Slot :=
  if s.env.codecClk && s.pcm.txRuns then
    match nextSlot s.pcm.txcA s.pcm.txPos with
    | some sl =>
      if s.pcm.rxRuns && chanEn s.pcm.rxcA sl.chan && decide (2 ≤ sl.frame) &&
          !(Slot.before ⟨sl.frame - 2, sl.chan⟩ s.pcm.rxPos) then none
      else some sl
    | none => none
  else none

/-- The frame boundary at which a direction that starts joins the other one, already running (43 R212:
the peripheral starts at a frame boundary; log 16). -/
def joinSlot (other : Slot) : Slot :=
  if other.chan = 0 then ⟨other.frame, 0⟩ else ⟨other.frame + 1, 0⟩

/-- The engine may step: ACTIVE and no recorded fault (42 R160, R169). -/
def State.engineRuns (s : State) : Bool := s.dma.active && s.dmaFault.isNone

/-- The live buffer index: the buffer of `decode_position(CONBLK_AD)` while the channel is active (20
R76; log 26). -/
def State.liveBuf (s : State) : Option (Fin 2) :=
  if s.dma.active then
    (decodePosition s.cfg (s.cfg.descBase 0) (s.cfg.descBase 1) s.dma.conblkAd.toNat).map (·.buffer)
  else none

/-- `a` lies in the live half (20 R73, R75). -/
def State.isLive (s : State) (a : Nat) : Bool :=
  match s.liveBuf with
  | some k => s.cfg.inHalf k.val a
  | none => false

/-- Pin `p` is an output (10_state R28; log 18). -/
def State.pinIsOut (s : State) (p : Nat) : Bool :=
  decide (p < s.cfg.nbrPins) && decide (p < 60) &&
  fnField (s.gpio.fsel.getD (p / 10) 0#32) (p % 10) == s.cfg.gpioOutFn

/-- The level word of a bank: `out[p]` for an output pin, the free bit for another (40 R129). -/
def State.levelWord (s : State) (bank : Fin 2) (free : Word) : Word :=
  (List.range 32).foldl
    (fun w i =>
      w ||| flagBit (if s.pinIsOut (32 * bank.val + i) then s.gpio.out.getLsbD (32 * bank.val + i)
        else free.getLsbD i) i) 0#32

end Sys2Proof.Machine
end

