-- ==== Sys2Proof/Machine/Ops.lean ====
section
/-! DEFINITION. The named operations over memory, queues and registers: the byte and word views of
memory (20 R66, R67, R72), the bus accesses of the engine and of HOST (R66, R67, R75, R78), the engine's
load, beats and advance (42 R163 to R167), the one operation that records an engine fault (42 R169, 20
R71), the ones that raise the error flags (60 R311). -/

namespace Sys2Proof.Machine

/-- The three outcomes of a step. -/
abbrev Res := Host.Outcome State Fault Refusal

/-- What a byte that nothing has written reads as (DESIGN CHOICE, log 5). -/
def unlistedByte : Byte := 0#8

/-- The byte at an address. -/
def Memory.readByte : List Host.Cell → Nat → Byte
  | [], _ => unlistedByte
  | (k, v) :: r, a => if k = a then v else Memory.readByte r a

/-- Memory with one byte written, in canonical form again: a byte equal to `unlistedByte` is not
listed. -/
def Memory.writeByte : List Host.Cell → Nat → Byte → List Host.Cell
  | [], a, v => if v = unlistedByte then [] else [(a, v)]
  | (k, w) :: r, a, v =>
    if a < k then (if v = unlistedByte then (k, w) :: r else (a, v) :: (k, w) :: r)
    else if a = k then (if v = unlistedByte then r else (a, v) :: r)
    else (k, w) :: Memory.writeByte r a v

/-- Addresses strictly rising from `lo` on, no entry equal to an unlisted byte. -/
def Memory.wfFrom : Nat → List Host.Cell → Bool
  | _, [] => true
  | lo, (a, v) :: r => decide (lo ≤ a) && decide (v ≠ unlistedByte) && Memory.wfFrom (a + 1) r

/-- The canonical form of memory. -/
def Memory.wf (m : List Host.Cell) : Bool := Memory.wfFrom 0 m

/-- The 32-bit word at an address, little-endian (20 R66, R72). -/
def Memory.readWord (m : List Host.Cell) (a : Nat) : Word :=
  wordOfBytes (Memory.readByte m a) (Memory.readByte m (a + 1)) (Memory.readByte m (a + 2))
    (Memory.readByte m (a + 3))

/-- Memory with one 32-bit word written (20 R67, R72). -/
def Memory.writeWord (m : List Host.Cell) (a : Nat) (v : Word) : List Host.Cell :=
  Memory.writeByte
    (Memory.writeByte (Memory.writeByte (Memory.writeByte m a (wordByte v 0)) (a + 1) (wordByte v 1))
      (a + 2) (wordByte v 2)) (a + 3) (wordByte v 3)

/-- The DMA channel replaced. -/
def State.withDma (s : State) (d : DmaState) : State := { s with dma := d }

/-- The PCM peripheral replaced. -/
def State.withPcm (s : State) (p : PcmState) : State := { s with pcm := p }

/-- The GPIO block replaced. -/
def State.withGpio (s : State) (g : GpioState) : State := { s with gpio := g }

/-- Memory replaced. -/
def State.withMem (s : State) (m : List Host.Cell) : State := { s with mem := m }

/-- HOST's variables replaced. -/
def State.withHost (s : State) (h : HostState) : State := { s with host := h }

/-- The environment replaced. -/
def State.withEnv (s : State) (e : EnvState) : State := { s with env := e }

/-- The value an operation returns to HOST (40 R120; log 21). -/
def State.returns (s : State) (r : HostResult) : State := s.withHost { s.host with result := r }

/-- HOST's pending operations replaced. -/
def State.withOps (s : State) (ops : List HostOp) : State := s.withHost { s.host with ops := ops }

/-- The next free word (00_scope R8 `draw`; log 4). -/
def State.free (s : State) : Word := Config.freeWord s.env.draws

/-- `n` free values used up. -/
def State.drew (s : State) (n : Nat) : State := s.withEnv { s.env with draws := s.env.draws + n }

/-- The result of one memory or port access (20 R66, R67). -/
inductive Access (α : Type) where
  | ok (x : α)
  | busError
  | refused (r : Refusal)
  deriving DecidableEq, Repr

/-- `FIFO_A` read: the oldest word of `rxfifo`, removed (43 R198). -/
def State.popRx (s : State) : Access (Word × State) :=
  match s.pcm.rxfifo with
  | [] => .refused .rxFifoEmpty
  | w :: r => .ok (w, s.withPcm { s.pcm with rxfifo := r })

/-- `FIFO_A` write: appended to `txfifo` (43 R199). -/
def State.pushTx (s : State) (v : Word) : Access State :=
  if s.pcm.txfifo.length < s.cfg.fifoDepth then
    .ok (s.withPcm { s.pcm with txfifo := s.pcm.txfifo ++ [v] })
  else .refused .txFifoFull

/-- An aligned word address inside the block (20 R66). -/
def State.wordInBlock (s : State) (a : Word) : Bool :=
  decide (a.toNat % 4 = 0) && s.cfg.inBlock a.toNat 4

/-- `MemRead(addr, 4)` as the engine issues it (20 R66). -/
def State.busRead (s : State) (a : Word) : Access (Word × State) :=
  if a = s.cfg.pcmFifoBus then s.popRx
  else if s.wordInBlock a then .ok (Memory.readWord s.mem a.toNat, s)
  else .busError

/-- `MemWrite(addr, 4, v)` as the engine issues it (20 R67). -/
def State.busWrite (s : State) (a v : Word) : Access State :=
  if a = s.cfg.pcmFifoBus then s.pushTx v
  else if s.wordInBlock a then .ok (s.withMem (Memory.writeWord s.mem a.toNat v))
  else .busError

/-- THE recording of an engine fault: never cleared, the engine has no further step (00_scope R8, 60
R307), `DEBUG.READ_ERROR` set, hence `CS.ERROR`, for either reason (92 D13). -/
def State.recordDmaFault (s : State) (f : Fault) : State :=
  { s with
    dmaFault := some f
    dma := { s.dma with debugErr := s.dma.debugErr ||| 4#3 } }

/-- The bus fault of 42 R169. -/
def State.busFault (s : State) : State := s.recordDmaFault .dmaBusError

/-- The receive error flag raised (43 R214, 60 R311). -/
def State.raiseRxErr (s : State) : State := s.withPcm { s.pcm with rxErr := true }

/-- The transmit error flag raised (43 R215, 60 R311). -/
def State.raiseTxErr (s : State) : State := s.withPcm { s.pcm with txErr := true }

/-- `load` of a descriptor's words into the working registers; the reserved words go nowhere (42
R163). -/
def State.load (s : State) (d : Desc) : State :=
  s.withDma { s.dma with
    ti := d.ti, sourceAd := d.src, destAd := d.dst, txfrLen := d.len, stride := d.stride
    nextconbk := d.next, phase := .loaded }

/-- `halt` (42 R167). -/
def State.halt (s : State) : State := s.withDma { s.dma with active := false, phase := .idle }

/-- `TXFR_LEN ← 0` and `advance` (42 R164 to R166). -/
def State.advance (s : State) : State :=
  s.withDma { s.dma with
    txfrLen := 0#32, endF := true, conblkAd := s.dma.nextconbk
    intF := s.dma.intF || tiInten s.dma.ti, phase := .needLoad }

/-- The read beat: the source word into the latch (42 R164, R165). -/
def State.readBeat (s : State) : Res :=
  match s.busRead s.dma.sourceAd with
  | .ok (w, t) => .next (t.withDma { t.dma with latch := w, phase := .latched })
  | .busError => .next s.busFault
  | .refused r => .refused r

/-- The write beat: the latch to the destination, then `advance` in the same step (42 R164 to
R166). -/
def State.writeBeat (s : State) : Res :=
  match s.busWrite s.dma.destAd s.dma.latch with
  | .ok t => .next t.advance
  | .busError => .next s.busFault
  | .refused r => .refused r

/-- One engine step of a paced one-word descriptor: load, read beat when its request signal is high, or
write beat; no step while the channel is inactive, faulted or waiting (42 R160 to R166). -/
def State.transferStep (s : State) (d : Desc) (dreq : Bool) : Res :=
  if s.engineRuns then
    match s.dma.phase with
    | .idle => .next s
    | .needLoad => .next (s.load d)
    | .loaded => if dreq then s.readBeat else .next s
    | .latched => s.writeBeat
  else .next s

/-- A transaction on the modelled channel's registers; another channel is no part of the machine (30
R99, 40 R123; log 13). -/
def State.onChannel (s : State) (ch : BitVec 4) (r : Res) : Res :=
  if ch = s.cfg.dmaChannel then r else .refused .otherDmaChannel

/-- A register read: the value returned, nothing else changed (40 R120). -/
def State.regRead (s : State) (v : Word) : Res := .next (s.returns (.word v))

/-- A register read with `any value` bits: one free word used up (10_state R15, R17, R20). -/
def State.regReadFree (s : State) (v : Word) : Res := .next ((s.returns (.word v)).drew 1)

/-- `DMA.RESET`'s effect (42 R174). DEDUCED (log 40): the discarded `latch` becomes 0, with the hidden state
of 70 R330. -/
def State.resetChannel (s : State) : State :=
  s.withDma { s.dma with
    active := false, endF := false, intF := false, opts := 0#32, conblkAd := 0#32, ti := 0#32
    sourceAd := 0#32, destAd := 0#32, txfrLen := 0#32, stride := 0#32, nextconbk := 0#32
    debugErr := 0#3, phase := .idle, latch := 0#32 }

/-- The write-1-to-clear bits END and INT of a write to DMA `CS` (10_state R15, 20 R70). -/
def DmaState.clearEvents (d : DmaState) (v : Word) : DmaState :=
  { d with endF := d.endF && !v.getLsbD 1, intF := d.intF && !v.getLsbD 2 }

/-- The abandoning of the current transfer (42 R173). DESIGN CHOICE (log 40): the discarded `latch` keeps its
word, which nothing reads before the next read beat. -/
def DmaState.abandon (d : DmaState) : DmaState :=
  if d.isLoaded then { d with conblkAd := d.nextconbk, phase := .needLoad } else d

/-- A write of `CS_A` (43 R192): error flags, FIFO clears, stored fields, and the positions of a
direction that starts (43 R212; log 16). -/
def PcmState.writeCs (p : PcmState) (v : Word) : PcmState :=
  let q : PcmState := { p with
    txErr := p.txErr && !v.getLsbD 15
    rxErr := p.rxErr && !v.getLsbD 16
    txfifo := if v.getLsbD 3 then [] else p.txfifo
    rxfifo := if v.getLsbD 4 then [] else p.rxfifo
    csStored := v &&& csAStoredMask }
  let rxStarts := q.rxRuns && !p.rxRuns
  let txStarts := q.txRuns && !p.txRuns
  { q with
    rxPos := if rxStarts then (if q.txRuns && !txStarts then joinSlot p.txPos else ⟨0, 0⟩) else p.rxPos
    txPos := if txStarts then (if q.rxRuns && !rxStarts then joinSlot p.rxPos else ⟨0, 0⟩) else p.txPos }

/-- Register programming, refused with EN = 0 (43 R194, 93 U20; log 14). -/
def State.programs (s : State) (r : Res) : Res :=
  if s.pcm.en then r else .refused .pcmDisabled

/-- A port access's outcome where there is no bus to fault on (43 R198, R199). -/
def portRead (x : Access (Word × State)) : Res :=
  match x with
  | .ok (w, t) => t.regRead w
  | .busError => .refused .hostAddress
  | .refused r => .refused r

/-- The same for a write. -/
def portWrite (x : Access State) : Res :=
  match x with
  | .ok t => .next t
  | .busError => .refused .hostAddress
  | .refused r => .refused r

/-- The mark of 20 R75. DESIGN CHOICE (log 8): nothing clears it, so it outlasts the run of 42 R162. -/
def State.markRace (s : State) : State := s.withHost { s.host with race := true }

/-- `MemRead(addr, 4)` as HOST issues it: the block, or the FIFO port; a slot of the live half is read
and the run marked `race` (20 R66, R75; log 8). -/
def State.hostRead (s : State) (a : Word) : Access (Word × State) :=
  if a = s.cfg.pcmFifoBus then (if s.pcm.en then s.popRx else .refused .pcmDisabled)
  else if s.wordInBlock a then
    .ok (Memory.readWord s.mem a.toNat, if s.isLive a.toNat then s.markRace else s)
  else .refused .hostAddress

/-- `MemWrite(addr, 4, v)` as HOST issues it: not to the descriptor area while the channel is active,
not to the live half (20 R67, R75, R78). -/
def State.hostWrite (s : State) (a v : Word) : Access State :=
  if a = s.cfg.pcmFifoBus then (if s.pcm.en then s.pushTx v else .refused .pcmDisabled)
  else if s.wordInBlock a then
    if s.dma.active && s.cfg.inDescArea a.toNat then .refused .descriptorWrite
    else if s.isLive a.toNat then .refused .liveHalfWrite
    else .ok (s.withMem (Memory.writeWord s.mem a.toNat v))
  else .refused .hostAddress

/-- Pull settings with `mode` for every pin of the mask (40 R130). -/
def setPulls (pull : List Pull) (mask : BitVec 64) (mode : Pull) : List Pull :=
  (List.range 64).map (fun p => if mask.getLsbD p then mode else pull.getD p .none)

/-- The mode a pull-control value selects: 0 none, 1 down, 2 up; another value selects a free one (40
R130; log 19). -/
def pullMode (v free : Word) : Pull :=
  if v = 0#32 then .none
  else if v = 1#32 then .down
  else if v = 2#32 then .up
  else if free.extractLsb' 0 2 = 1#2 then .down
  else if free.extractLsb' 0 2 = 2#2 then .up
  else .none

/-- A staging buffer with one element replaced (10_state R30). -/
def Stage.set (t : Stage) (ch i : Nat) (w : Word) : Stage :=
  if ch = 0 then { t with ch0 := t.ch0.set i w } else { t with ch1 := t.ch1.set i w }

/-- An element of a staging buffer. -/
def Stage.get (t : Stage) (ch i : Nat) : Word :=
  if ch = 0 then t.ch0.getD i 0#32 else t.ch1.getD i 0#32

end Sys2Proof.Machine
end

