-- ==== Sys2Proof/Machine/Converter.lean ====
section
/-! DEFINITION. The meanings of the converter operations (45_sample_converter R271 to R277): the value
returned to HOST, nothing else of the machine changed (R270). -/

namespace Sys2Proof.Machine

/-- `CVT.I2F` (R271). -/
def execCvtI2f (w : Word) (s : State) : Res := .next (s.returns (.word (i2f w)))

/-- `CVT.I2F.V4` (R272): each lane by itself. -/
def execCvtI2fV4 (w0 w1 w2 w3 : Word) (s : State) : Res :=
  .next (s.returns (.vec (i2f w0) (i2f w1) (i2f w2) (i2f w3)))

/-- The free word of lane `j` (R277). -/
def State.freeLane (s : State) (j : Nat) : Word := Config.freeWord (s.env.draws + j)

/-- `CVT.F2I` (R273, R277). -/
def execCvtF2i (f : Word) (s : State) : Res :=
  .next ((s.returns (.word (f2i s.cfg.f2iRound s.free f))).drew 1)

/-- `CVT.F2I.V4` (R275, R277): each lane by itself, a free word of its own for each. -/
def execCvtF2iV4 (f0 f1 f2 f3 : Word) (s : State) : Res :=
  .next ((s.returns (.vec
    (f2i s.cfg.f2iRound (s.freeLane 0) f0) (f2i s.cfg.f2iRound (s.freeLane 1) f1)
    (f2i s.cfg.f2iRound (s.freeLane 2) f2) (f2i s.cfg.f2iRound (s.freeLane 3) f3))).drew 4)

end Sys2Proof.Machine
end

