-- ==== Sys2Proof/Machine/Descriptor.lean ====
section
/-! DEFINITION. The meanings of the descriptor kinds (42_dma_executor R163 to R168): the engine step
the phase selects. -/

namespace Sys2Proof.Machine

/-- `XFER.RX` (R164): paced by `rx_dreq`. -/
def execXferRx (d : Desc) (s : State) : Res := s.transferStep d s.rxDreq

/-- `XFER.TX` (R165): paced by `tx_dreq`. -/
def execXferTx (d : Desc) (s : State) : Res := s.transferStep d s.txDreq

/-- `XFER.OTHER` (R168): the spec gives it no meaning. -/
def execXferOther (_d : Desc) (_s : State) : Res := .refused .xferOther

end Sys2Proof.Machine
end

