-- ==== Sys2Proof/Machine/DmaChannel.lean ====
section
/-! DEFINITION. The meanings of the DMA channel transactions (42_dma_executor R170 to R178; 10_state
R14 to R17). -/

namespace Sys2Proof.Machine

/-- `DMA.RDCS` (R176). -/
def execDmaRdcs (ch : BitVec 4) (s : State) : Res :=
  s.onChannel ch (s.regReadFree (s.dmaCsWord s.free))

/-- `DMA.RESET` (R174). -/
def execDmaReset (ch : BitVec 4) (v : Word) (s : State) : Res :=
  s.onChannel ch (if v &&& dmaCsReserved ≠ 0#32 then .refused .reservedBit else .next s.resetChannel)

/-- `DMA.ABORT` (R173); as a write of `CS` (40 R121) it stores the option fields and clears END and INT
where 1 is written (10_state R15; log 9). -/
def execDmaAbort (ch : BitVec 4) (v : Word) (s : State) : Res :=
  s.onChannel ch
    (if v &&& dmaCsReserved ≠ 0#32 then .refused .reservedBit
    else .next (s.withDma { s.dma.abandon.clearEvents v with
      active := v.getLsbD 0
      opts := v &&& dmaCsOpts }))

/-- `DMA.GO` (R171; from `Idle` the next engine step is a load, 95 V7; log 10). -/
def execDmaGo (ch : BitVec 4) (v : Word) (s : State) : Res :=
  s.onChannel ch
    (if v &&& dmaCsReserved ≠ 0#32 then .refused .reservedBit
    else .next (s.withDma { s.dma.clearEvents v with
      active := true
      opts := v &&& dmaCsOpts
      phase := if s.dma.phase = .idle then .needLoad else s.dma.phase }))

/-- `DMA.PAUSE` (R172; END and INT are write-1-to-clear, 20 R70; log 9). -/
def execDmaPause (ch : BitVec 4) (v : Word) (s : State) : Res :=
  s.onChannel ch
    (if v &&& dmaCsReserved ≠ 0#32 then .refused .reservedBit
    else .next (s.withDma { s.dma.clearEvents v with active := false }))

/-- `DMA.RDPOS` (R175). -/
def execDmaRdpos (ch : BitVec 4) (s : State) : Res := s.onChannel ch (s.regRead s.dma.conblkAd)

/-- `DMA.SETCB` (R170; log 11). -/
def execDmaSetcb (ch : BitVec 4) (a : Word) (s : State) : Res :=
  s.onChannel ch
    (if s.dma.active then .refused .setcbActive
    else .next (s.withDma { s.dma with conblkAd := a, phase := .needLoad }))

/-- `DMA.RDTI` (R178). -/
def execDmaRdti (ch : BitVec 4) (s : State) : Res := s.onChannel ch (s.regRead s.dma.ti)

/-- `DMA.RDSRC` (R178). -/
def execDmaRdsrc (ch : BitVec 4) (s : State) : Res := s.onChannel ch (s.regRead s.dma.sourceAd)

/-- `DMA.RDDST` (R178). -/
def execDmaRddst (ch : BitVec 4) (s : State) : Res := s.onChannel ch (s.regRead s.dma.destAd)

/-- `DMA.RDLEN` (R178). -/
def execDmaRdlen (ch : BitVec 4) (s : State) : Res := s.onChannel ch (s.regRead s.dma.txfrLen)

/-- `DMA.RDSTRIDE` (R178). -/
def execDmaRdstride (ch : BitVec 4) (s : State) : Res := s.onChannel ch (s.regRead s.dma.stride)

/-- `DMA.RDNEXT` (R178). -/
def execDmaRdnext (ch : BitVec 4) (s : State) : Res := s.onChannel ch (s.regRead s.dma.nextconbk)

/-- `DMA.RDDBG` (R177). -/
def execDmaRddbg (ch : BitVec 4) (s : State) : Res :=
  s.onChannel ch (s.regReadFree (s.dmaDebugWord s.free))

/-- `DMA.CLRDBG` (R177): bits 2:0 are write-1-to-clear; a recorded fault stays. -/
def execDmaClrdbg (ch : BitVec 4) (v : Word) (s : State) : Res :=
  s.onChannel ch
    (.next (s.withDma { s.dma with debugErr := s.dma.debugErr &&& ~~~(v.extractLsb' 0 3) }))

end Sys2Proof.Machine
end

