-- ==== Sys2Proof/Machine/Gpio.lean ====
section
/-! DEFINITION. The meanings of the GPIO transactions (40_register_access R125 to R130; 10_state
R28). -/

namespace Sys2Proof.Machine

/-- `GPIO.SETFN` (R125): the 3-bit field of the pin replaced in one step. -/
def execGpioSetfn (reg : Fin 6) (field : Fin 10) (f : BitVec 3) (s : State) : Res :=
  if fieldPin reg.val field.val < s.cfg.nbrPins then
    .next (s.withGpio { s.gpio with
      fsel := s.gpio.fsel.set reg.val (setFnField (s.gpio.fsel.getD reg.val 0#32) field.val f) })
  else .refused .noSuchPin

/-- `GPIO.SET` (R126). -/
def execGpioSet (bank : Fin 2) (v : Word) (s : State) : Res :=
  .next (s.withGpio { s.gpio with out := s.gpio.out ||| bankMask bank v })

/-- `GPIO.CLR` (R127). -/
def execGpioClr (bank : Fin 2) (v : Word) (s : State) : Res :=
  .next (s.withGpio { s.gpio with out := s.gpio.out &&& ~~~(bankMask bank v) })

/-- `GPIO.READ` (R129): the level register of the bank. -/
def execGpioRead (bank : Fin 2) (s : State) : Res := s.regReadFree (s.levelWord bank s.free)

/-- `GPIO.PUD` (R130): the pull-control register. -/
def execGpioPud (v : Word) (s : State) : Res := .next (s.withGpio { s.gpio with pullCtl := v })

/-- `GPIO.PUDCLK` (R130): the pins whose bit is 1 take the mode in the pull-control register. DESIGN
CHOICE (log 19): issued by itself it sets the pulls at this write, and no pull-clock word is kept. -/
def execGpioPudclk (bank : Fin 2) (v : Word) (s : State) : Res :=
  .next ((s.withGpio { s.gpio with
    pull := setPulls s.gpio.pull (bankMask bank v) (pullMode s.gpio.pullCtl s.free) }).drew 1)

end Sys2Proof.Machine
end

