-- ==== Sys2Proof/Machine/Pcm.lean ====
section
/-! DEFINITION. The meanings of the PCM transactions (43_pcm_interface R191 to R205; 10_state R20 to
R27) and the PCM agent's two word events (R212 to R215). -/

namespace Sys2Proof.Machine

/-- `PCM.RDCS` (R191). -/
def execPcmRdcs (s : State) : Res := s.regReadFree (s.csAWord s.free)

/-- `PCM.WRCS` (R192). -/
def execPcmWrcs (v : Word) (s : State) : Res :=
  if v &&& csAReserved ≠ 0#32 then .refused .reservedBit
  else .next (s.withPcm (s.pcm.writeCs v))

/-- `PCM.RDFIFO` (R194, R198). -/
def execPcmRdfifo (s : State) : Res := s.programs (portRead s.popRx)

/-- `PCM.WRFIFO` (R194, R199). -/
def execPcmWrfifo (v : Word) (s : State) : Res := s.programs (portWrite (s.pushTx v))

/-- `PCM.RDMODE` (R200). -/
def execPcmRdmode (s : State) : Res := s.regRead s.pcm.modeA

/-- `PCM.WRMODE` (R194, R200). -/
def execPcmWrmode (v : Word) (s : State) : Res :=
  s.programs
    (if v &&& modePacked ≠ 0#32 then .refused .packedMode
    else if v &&& modeReserved ≠ 0#32 then .refused .reservedBit
    else .next (s.withPcm { s.pcm with modeA := v }))

/-- `PCM.RDRXC` (R201). -/
def execPcmRdrxc (s : State) : Res := s.regRead s.pcm.rxcA

/-- `PCM.WRRXC` (R194, R201). -/
def execPcmWrrxc (v : Word) (s : State) : Res :=
  s.programs
    (if widthsOk v then .next (s.withPcm { s.pcm with rxcA := v }) else .refused .channelWidth)

/-- `PCM.RDTXC` (R202). -/
def execPcmRdtxc (s : State) : Res := s.regRead s.pcm.txcA

/-- `PCM.WRTXC` (R194, R202). -/
def execPcmWrtxc (v : Word) (s : State) : Res :=
  s.programs
    (if widthsOk v then .next (s.withPcm { s.pcm with txcA := v }) else .refused .channelWidth)

/-- `PCM.RDDREQ` (R203). -/
def execPcmRddreq (s : State) : Res := s.regRead s.pcm.dreqA

/-- `PCM.WRDREQ` (R194, R203). -/
def execPcmWrdreq (v : Word) (s : State) : Res :=
  s.programs
    (if v &&& dreqReserved ≠ 0#32 then .refused .reservedBit
    else .next (s.withPcm { s.pcm with dreqA := v }))

/-- `PCM.RDINTEN` (R204). -/
def execPcmRdinten (s : State) : Res := s.regRead s.pcm.intenA

/-- `PCM.WRINTEN` (R194, R204). -/
def execPcmWrinten (v : Word) (s : State) : Res :=
  s.programs
    (if v &&& intenReserved ≠ 0#32 then .refused .reservedBit
    else .next (s.withPcm { s.pcm with intenA := v }))

/-- `PCM.RDINTSTC` (R205): `any value`. -/
def execPcmRdintstc (s : State) : Res := s.regReadFree s.free

/-- `PCM.WRINTSTC` (R205): no effect in the model. -/
def execPcmWrintstc (_v : Word) (s : State) : Res := .next s

/-- The receive word event with `codec_in` value `v` (R212, R213); overrun (R214). No event: nothing
happens. -/
def State.rxWord (s : State) (v : BitVec 24) : State :=
  match s.rxEvent with
  | none => s
  | some sl =>
    let t := s.withPcm { s.pcm with rxPos := sl.succ }
    if s.pcm.rxfifo.length < s.cfg.fifoDepth then
      t.withPcm { t.pcm with
        rxfifo := t.pcm.rxfifo ++ [if s.pcm.rxsex then sext24 v else zext24 v] }
    else t.raiseRxErr

/-- A word recorded in `codec_out` (10_state R33). -/
def State.sends (s : State) (sl : Slot) (v : BitVec 24) : State :=
  s.withEnv { s.env with codecOut := s.env.codecOut ++ [⟨sl, v⟩] }

/-- The transmit word event (R212, R215); underrun sends a free value. No event: nothing happens. -/
def State.txWord (s : State) : State :=
  match s.txEvent with
  | none => s
  | some sl =>
    let t := s.withPcm { s.pcm with txPos := sl.succ }
    match s.pcm.txfifo with
    | w :: r => (t.withPcm { t.pcm with txfifo := r }).sends sl (w.extractLsb' 0 24)
    | [] => (t.raiseTxErr.sends sl (s.free.extractLsb' 0 24)).drew 1

end Sys2Proof.Machine
end

