-- ==== Sys2Proof/Machine/Dispatch.lean ====
section
/-! DEFINITION. One arm per instruction: the meaning it runs. -/

namespace Sys2Proof.Machine

def exec (i : Instr) (s : State) : Host.Outcome State Fault Refusal :=
  match i with
  | .xferRx d => Sys2Proof.Machine.execXferRx d s
  | .xferTx d => Sys2Proof.Machine.execXferTx d s
  | .xferOther d => Sys2Proof.Machine.execXferOther d s
  | .dmaRdcs ch => Sys2Proof.Machine.execDmaRdcs ch s
  | .dmaReset ch v => Sys2Proof.Machine.execDmaReset ch v s
  | .dmaAbort ch v => Sys2Proof.Machine.execDmaAbort ch v s
  | .dmaGo ch v => Sys2Proof.Machine.execDmaGo ch v s
  | .dmaPause ch v => Sys2Proof.Machine.execDmaPause ch v s
  | .dmaRdpos ch => Sys2Proof.Machine.execDmaRdpos ch s
  | .dmaSetcb ch a => Sys2Proof.Machine.execDmaSetcb ch a s
  | .dmaRdti ch => Sys2Proof.Machine.execDmaRdti ch s
  | .dmaRdsrc ch => Sys2Proof.Machine.execDmaRdsrc ch s
  | .dmaRddst ch => Sys2Proof.Machine.execDmaRddst ch s
  | .dmaRdlen ch => Sys2Proof.Machine.execDmaRdlen ch s
  | .dmaRdstride ch => Sys2Proof.Machine.execDmaRdstride ch s
  | .dmaRdnext ch => Sys2Proof.Machine.execDmaRdnext ch s
  | .dmaRddbg ch => Sys2Proof.Machine.execDmaRddbg ch s
  | .dmaClrdbg ch v => Sys2Proof.Machine.execDmaClrdbg ch v s
  | .pcmRdcs => Sys2Proof.Machine.execPcmRdcs s
  | .pcmWrcs v => Sys2Proof.Machine.execPcmWrcs v s
  | .pcmRdfifo => Sys2Proof.Machine.execPcmRdfifo s
  | .pcmWrfifo v => Sys2Proof.Machine.execPcmWrfifo v s
  | .pcmRdmode => Sys2Proof.Machine.execPcmRdmode s
  | .pcmWrmode v => Sys2Proof.Machine.execPcmWrmode v s
  | .pcmRdrxc => Sys2Proof.Machine.execPcmRdrxc s
  | .pcmWrrxc v => Sys2Proof.Machine.execPcmWrrxc v s
  | .pcmRdtxc => Sys2Proof.Machine.execPcmRdtxc s
  | .pcmWrtxc v => Sys2Proof.Machine.execPcmWrtxc v s
  | .pcmRddreq => Sys2Proof.Machine.execPcmRddreq s
  | .pcmWrdreq v => Sys2Proof.Machine.execPcmWrdreq v s
  | .pcmRdinten => Sys2Proof.Machine.execPcmRdinten s
  | .pcmWrinten v => Sys2Proof.Machine.execPcmWrinten v s
  | .pcmRdintstc => Sys2Proof.Machine.execPcmRdintstc s
  | .pcmWrintstc v => Sys2Proof.Machine.execPcmWrintstc v s
  | .gpioSetfn reg field f => Sys2Proof.Machine.execGpioSetfn reg field f s
  | .gpioSet bank v => Sys2Proof.Machine.execGpioSet bank v s
  | .gpioClr bank v => Sys2Proof.Machine.execGpioClr bank v s
  | .gpioRead bank => Sys2Proof.Machine.execGpioRead bank s
  | .gpioPud v => Sys2Proof.Machine.execGpioPud v s
  | .gpioPudclk bank v => Sys2Proof.Machine.execGpioPudclk bank v s
  | .cvtI2f w => Sys2Proof.Machine.execCvtI2f w s
  | .cvtI2fV4 w0 w1 w2 w3 => Sys2Proof.Machine.execCvtI2fV4 w0 w1 w2 w3 s
  | .cvtF2i f => Sys2Proof.Machine.execCvtF2i f s
  | .cvtF2iV4 f0 f1 f2 f3 => Sys2Proof.Machine.execCvtF2iV4 f0 f1 f2 f3 s

end Sys2Proof.Machine
end

