-- ==== Sys2Proof/Machine/Transport.lean ====
section
/-! DEFINITION. HOST's sequences: the pseudo-instructions' expansions (30 R104), INIT, START, STOP,
RESTART and the polling loop (44_transport R230 to R254), the chain builder (41 R151), the pipeline (45
R280 to R284), one HOST step at a time. -/

namespace Sys2Proof.Machine

/-- An encoded instruction decoded and run; what is no instruction is refused by name (40 R122,
R123). -/
def State.runEncoded (s : State) (e : Encoded) : Res :=
  match decode s.cfg e with
  | .ok i => exec i s
  | .error err => .refused (.badEncoding err)

/-- `r` as the effect of HOST's transaction `i`; outside its window it is refused (40 R122, R123). -/
def State.issues (s : State) (i : Instr) (r : Res) : Res :=
  match decode s.cfg (encode i) with
  | .ok _ => r
  | .error err => .refused (.badEncoding err)

/-- A 32-bit bus address. -/
def busAddr (a : Nat) : Word := BitVec.ofNat 32 a

/-- TXCLR, RXCLR, TXERR, RXERR of `CS_A` (43 R206). -/
def csClrFifos : Word := 0x00018018#32

/-- TXERR, RXERR of `CS_A` (43 R197). -/
def csErrBits : Word := 0x00018000#32

/-- EN, RXON, TXON, DMAEN of `CS_A` (43 R208). -/
def csDisableBits : Word := 0x00000207#32

/-- RXON, TXON of `CS_A` (43 R211). -/
def csEnableBits : Word := 0x00000006#32

/-- A read-modify-write of `CS_A`: two transactions (43 R192, 30 R103). -/
def rmwCs (clr set : Word) : List HostOp := [.run .pcmRdcs, .csWrite clr set]

/-- `PCM.CLRFIFOS` (43 R206). -/
def clrFifosOps : List HostOp := rmwCs 0#32 csClrFifos

/-- `PCM.PREFILL n` (43 R207). -/
def prefillOps (n : Nat) : List HostOp := List.replicate n (.run (.pcmWrfifo 0#32))

/-- `PCM.DISABLE` (43 R208). -/
def disableOps : List HostOp := rmwCs csDisableBits 0#32

/-- `PCM.ENABLE` (43 R211). -/
def enableOps : List HostOp := rmwCs 0#32 csEnableBits

/-- `PCM.CLRERR` (43 R197). -/
def clrErrOps : List HostOp := rmwCs 0#32 csErrBits

/-- `CHAIN.BUILD` (41 R140 to R145). -/
def chainBuildOps : List HostOp := [.chainBuild 0, .chainBases]

/-- The value `START` writes to `DREQ_A` (43 R217 e). -/
def Cfg.dreqValue (c : Cfg) : Word :=
  0x10100000#32 + (BitVec.ofNat 32 c.txReqLevel <<< 8) + BitVec.ofNat 32 c.rxReqLevel

/-- START step 3, transactions a to g (43 R217). -/
def pcmInitOps (c : Cfg) : List HostOp :=
  [.run (.pcmWrcs 0x00000001#32), .run (.pcmWrmode 0x00A0FC20#32), .run (.pcmWrrxc 0xC010C210#32),
   .run (.pcmWrtxc 0xC010C210#32), .run (.pcmWrdreq (Cfg.dreqValue c)), .run (.pcmWrinten 0#32),
   .run (.pcmWrcs 0x008002A1#32)]

/-- START step 6 (44 R233). -/
def armOps (c : Cfg) : List HostOp :=
  [.run (.dmaReset c.dmaChannel 0x80000000#32), .run (.dmaSetcb c.dmaChannel (busAddr (c.descAddr 0))),
   .run (.dmaGo c.dmaChannel 0x00000001#32)]

/-- `START` (44 R232, R233). -/
def startOps (c : Cfg) : List HostOp :=
  [.codecReset, .codecBringUp] ++ pcmInitOps c ++ clrFifosOps ++ [.clearRegion 0] ++ chainBuildOps ++ armOps c ++
  prefillOps c.prefillWords ++ enableOps ++ [.startDone]

/-- What `STOP` does once the loop has returned (44 R235). -/
def stopOps (c : Cfg) : List HostOp :=
  disableOps ++ [.run (.dmaAbort c.dmaChannel 0x40000000#32),
    .run (.dmaReset c.dmaChannel 0x80000000#32), .stopDone]

/-- Steps 1 to 7 of one iteration (44 R241 to R247), `k` being the pair that is not `cur_buf`. -/
def iterationOps (k : Fin 2) : List HostOp :=
  [.pipeIn k 0, .pipeCall, .pipeOut k 0, .readPosition, .readStatus, .clearErrors, .adopt, .notify,
   .sleep, .busyPoll]

/-- The word with one pin's bit in its bank (40 R126). -/
def pinBit (pin : Nat) : Word := 1#32 <<< (pin % 32)

/-- The bank of a pin (10_state R28). -/
def pinBank (pin : Nat) : Fin 2 := if pin < 32 then 0 else 1

/-- The expansion of a pseudo-instruction (30 R104). -/
def pseudoOps (p : Pseudo) : List HostOp :=
  match p with
  | .clrFifos => clrFifosOps
  | .prefill n => prefillOps n
  | .disable => disableOps
  | .enable => enableOps
  | .clrErr => clrErrOps
  | .gpioWrite pin v =>
    if v ≠ 0 then [.run (.gpioSet (pinBank pin) (pinBit pin))]
    else [.run (.gpioClr (pinBank pin) (pinBit pin))]
  | .gpioRead pin => [.gpioLevel pin]
  | .gpioPull pin mode => [.gpioPull pin mode]
  | .chainBuild => chainBuildOps
  | .clearRegion => [.clearRegion 0]
  | .pipeIn k => [.pipeIn k 0]
  | .pipeCall => [.pipeCall]
  | .pipeOut k => [.pipeOut k 0]
  | .pipeBlock k => [.pipeIn k 0, .pipeCall, .pipeOut k 0]
  | .position => [.position]
  | .snapshot => [.snapshot 0]

/-- HOST begins a pseudo-instruction. DESIGN CHOICE (log 27): its operations come before those of a
sequence still pending, which goes on when they are done. -/
def State.beginPseudo (s : State) (p : Pseudo) : State := s.withOps (pseudoOps p ++ s.host.ops)

/-- A pin operation reaches a listed register: `p div 32` is 0 or 1 (40 R126, R127, R129, R130; 30
R100). -/
def pseudoListed (p : Pseudo) : Bool :=
  match p with
  | .gpioWrite pin _ => decide (pin < 64)
  | .gpioRead pin => decide (pin < 64)
  | .gpioPull pin _ => decide (pin < 64)
  | .clrFifos | .prefill _ | .disable | .enable | .clrErr | .chainBuild | .clearRegion
  | .pipeIn _ | .pipeCall | .pipeOut _ | .pipeBlock _ | .position | .snapshot => true

/-- HOST's turn with a pseudo-instruction: begun, or refused where its register is not listed (40
R123). -/
def State.pseudoTurn (s : State) (p : Pseudo) : Res :=
  if pseudoListed p then .next (s.beginPseudo p) else .refused .noSuchPin

/-- A recorded loop fault: the loop has no next step (41 R148, 60 R307). -/
def State.recordLoopFault (s : State) : State :=
  s.withHost { s.host with loopFault := some .positionUndecodable }

/-- `decode_position(DMA.RDPOS)` against the recorded table (44 R242, R247). -/
def State.hostPosition (s : State) : Option Position :=
  decodePosition s.cfg s.host.descBase0.toNat s.host.descBase1.toNat s.dma.conblkAd.toNat

/-- One word of a HOST walk over memory written, the walk going on with `again` or ended. -/
def State.walkWrite (s : State) (a v : Word) (rest : List HostOp) : Res :=
  match s.hostWrite a v with
  | .ok t => .next (t.withOps rest)
  | .busError => .refused .hostAddress
  | .refused r => .refused r

/-- Word `i` of the Sample Region cleared (44 R232). -/
def State.clearRegionStep (s : State) (i : Nat) (rest : List HostOp) : Res :=
  if 4 * i < s.cfg.regionBytes then
    s.walkWrite (busAddr (s.cfg.smpBus + 4 * i)) 0#32 (.clearRegion (i + 1) :: rest)
  else .next (s.withOps rest)

/-- Word `i` of the descriptor area written (41 R142, R143, R151). -/
def State.chainBuildStep (s : State) (i : Nat) (rest : List HostOp) : Res :=
  if i < 8 * s.cfg.nDesc then
    s.walkWrite (busAddr (s.cfg.descBus + 4 * i)) (descWord (s.cfg.chainDesc (i / 8)) (i % 8))
      (.chainBuild (i + 1) :: rest)
  else .next (s.withOps rest)

/-- Word `i` of input buffer `k` converted into the staging buffers (45 R280). -/
def State.pipeInStep (s : State) (k : Fin 2) (i : Nat) (rest : List HostOp) : Res :=
  if 4 * i < s.cfg.bufBytes then
    match s.hostRead (busAddr (s.cfg.inBase k.val + 4 * i)) with
    | .ok (w, t) =>
      .next ((t.withHost { t.host with
        stageIn := t.host.stageIn.set (i % nbrChannels) (i / nbrChannels) (i2f w) }).withOps
          (.pipeIn k (i + 1) :: rest))
    | .busError => .refused .hostAddress
    | .refused r => .refused r
  else .next (s.withOps rest)

/-- Word `i` of output buffer `k` converted from the staging buffers (45 R282). -/
def State.pipeOutStep (s : State) (k : Fin 2) (i : Nat) (rest : List HostOp) : Res :=
  if 4 * i < s.cfg.bufBytes then
    (s.drew 1).walkWrite (busAddr (s.cfg.outBase k.val + 4 * i))
      (f2i s.cfg.f2iRound s.free (s.host.stageOut.get (i % nbrChannels) (i / nbrChannels)))
      (.pipeOut k (i + 1) :: rest)
  else .next (s.withOps rest)

/-- Loop step 2 (44 R242). -/
def State.readPositionStep (s : State) (rest : List HostOp) : State :=
  match s.hostPosition with
  | some p =>
    (s.withHost { s.host with hwBuf := p.buffer, hwFrame := p.frame, hwChan := p.chan }).withOps rest
  | none => s.recordLoopFault

/-- Loop step 3, the read (44 R243). -/
def State.readStatusStep (s : State) (rest : List HostOp) : State :=
  ((s.withHost { s.host with pollCs := s.csAWord s.free }).withOps rest).drew 1

/-- Loop step 3, the clearing write of the flags found set (44 R243). -/
def State.clearErrorsStep (s : State) (rest : List HostOp) : Res :=
  if s.host.pollCs &&& csErrBits ≠ 0#32 then
    ((s.withHost { s.host with err := true }).withOps rest).runEncoded
      (encode (.pcmWrcs (s.pcm.csStored ||| (s.host.pollCs &&& csErrBits))))
  else .next (s.withOps rest)

/-- Loop step 4 (44 R244). -/
def State.adoptStep (s : State) (rest : List HostOp) : State :=
  if s.host.hwBuf ≠ s.host.curBuf then
    (s.withHost { s.host with err := true, curBuf := s.host.hwBuf }).withOps rest
  else s.withOps rest

/-- Loop step 5 (44 R245). -/
def State.notifyStep (s : State) (rest : List HostOp) : State :=
  if s.host.err then (s.withHost { s.host with dropouts := s.host.dropouts + 1 }).withOps rest
  else s.withOps rest

/-- Loop step 6 (44 R246): whether `(BLOCK_SIZE − hw_frame) × SAMPLE_PERIOD − SLEEP_OVERHEAD > 0`; the
time asleep is the other agents' steps that follow (log 28). -/
def State.sleepStep (s : State) (rest : List HostOp) : State :=
  (s.withHost { s.host with
    slept := decide (s.cfg.sleepNum * s.cfg.sampleRate <
      (s.cfg.blockSize - s.host.hwFrame) * s.cfg.sleepDen) }).withOps rest

/-- One reading of loop step 7 (44 R247, R248): no exit but a changed buffer. -/
def State.busyPollStep (s : State) (rest : List HostOp) : State :=
  match s.hostPosition with
  | some p =>
    if p.buffer ≠ s.host.curBuf then (s.withHost { s.host with curBuf := p.buffer }).withOps rest
    else s
  | none => s.recordLoopFault

/-- The loop head (44 R240): leave when `exit_flag`, else begin an iteration. -/
def State.loopHeadStep (s : State) (rest : List HostOp) : State :=
  if s.host.exitFlag then s.withOps rest
  else (s.withHost { s.host with err := false }).withOps
    (iterationOps (1 - s.host.curBuf) ++ .loopHead :: rest)

/-- START step 9 (44 R233, D25); `exit_requested` is false after it (10_state R34; log 38). -/
def State.startDoneStep (s : State) (rest : List HostOp) : State :=
  (s.withHost { s.host with
    curBuf := 0, exitFlag := false, exitRequested := false, tstate := .running, result := .ok }).withOps (.loopHead :: rest)

/-- The end of STOP (44 R235). -/
def State.stopDoneStep (s : State) (rest : List HostOp) : State :=
  (s.withHost { s.host with tstate := .stopped, result := .ok }).withOps rest

/-- Word `i` of the snapshot of both input buffers (44 R249): a draw, and the race mark, for the live
one (20 R75; log 8). -/
def State.snapshotStep (s : State) (i : Nat) (rest : List HostOp) : State :=
  if 4 * i < nbrBuffers * s.cfg.bufBytes then
    let a := s.cfg.inBase 0 + 4 * i
    if s.isLive a then
      ((s.withHost { s.host with snap := s.host.snap ++ [s.free], race := true }).withOps
        (.snapshot (i + 1) :: rest)).drew 1
    else
      (s.withHost { s.host with snap := s.host.snap ++ [Memory.readWord s.mem a] }).withOps
        (.snapshot (i + 1) :: rest)
  else s.withOps rest

/-- `GPIO.PULL` in one step, 0 written to the pull control at its end (40 R130). DESIGN CHOICE (log 18):
a pin below 64 that the SoC lacks is programmed like any other, as by `GPIO.PUDCLK`; from 64 on there is
no pull-clock register (40 R123). -/
def State.gpioPullStep (s : State) (pin : Nat) (mode : Pull) (rest : List HostOp) : Res :=
  if pin < 64 then
    s.issues (.gpioPud 0#32) (s.issues (.gpioPudclk (pinBank pin) (pinBit pin))
      (.next ((s.withGpio { s.gpio with pull := s.gpio.pull.set pin mode, pullCtl := 0#32 }).withOps rest)))
  else .refused .noSuchPin

/-- `GPIO.READ p`: bit `p mod 32` of the level word of the pin's bank (40 R129). -/
def State.gpioLevelStep (s : State) (pin : Nat) (rest : List HostOp) : Res :=
  if pin < 64 then
    s.issues (.gpioRead (pinBank pin))
      (((s.withOps rest).regReadFree ((s.levelWord (pinBank pin) s.free >>> (pin % 32)) &&& 1#32)))
  else .refused .noSuchPin

/-- START step 1 resets the codec: no frame from here until the codec is up again (44 R233, 70 R342). -/
def State.codecResetStep (s : State) (rest : List HostOp) : State :=
  (s.withOps rest).withEnv { s.env with codecUp := false, codecClk := false }

/-- One HOST step. START's codec bring-up and PIPE.CALL wait for the agent outside (44 R234, R250). -/
def State.hostOpStep (s : State) (op : HostOp) (rest : List HostOp) : Res :=
  match op with
  | .run i => (s.withOps rest).runEncoded (encode i)
  | .csWrite clr set =>
    (s.withOps rest).runEncoded (encode (.pcmWrcs ((s.pcm.csStored &&& ~~~clr) ||| set)))
  | .codecReset => .next (s.codecResetStep rest)
  | .codecBringUp => .next s
  | .clearRegion i => s.clearRegionStep i rest
  | .chainBuild i => s.chainBuildStep i rest
  | .chainBases =>
    .next ((s.withHost { s.host with
      descBase0 := busAddr (s.cfg.descBase 0), descBase1 := busAddr (s.cfg.descBase 1) }).withOps rest)
  | .startDone => .next (s.startDoneStep rest)
  | .stopDone => .next (s.stopDoneStep rest)
  | .loopHead => .next (s.loopHeadStep rest)
  | .pipeIn k i => s.pipeInStep k i rest
  | .pipeCall => .next s
  | .pipeOut k i => s.pipeOutStep k i rest
  | .readPosition => s.issues (.dmaRdpos s.cfg.dmaChannel) (.next (s.readPositionStep rest))
  | .readStatus => s.issues .pcmRdcs (.next (s.readStatusStep rest))
  | .clearErrors => s.clearErrorsStep rest
  | .adopt => .next (s.adoptStep rest)
  | .notify => .next (s.notifyStep rest)
  | .sleep => .next (s.sleepStep rest)
  | .busyPoll => s.issues (.dmaRdpos s.cfg.dmaChannel) (.next (s.busyPollStep rest))
  | .position =>
    s.issues (.dmaRdpos s.cfg.dmaChannel) (.next ((s.returns (.position s.hostPosition)).withOps rest))
  | .snapshot i => .next (s.snapshotStep i rest)
  | .gpioLevel pin => s.gpioLevelStep pin rest
  | .gpioPull pin mode => s.gpioPullStep pin mode rest

/-- HOST's turn: the next step of the sequence it is in; none after a loop fault (41 R148, 60
R307). DESIGN CHOICE (log 7): the fault bars these steps only, a pseudo-instruction's in the list
included. -/
def State.hostTurn (s : State) : Res :=
  match s.host.ops with
  | op :: rest => if s.host.loopFault.isSome then .next s else s.hostOpStep op rest
  | [] => .next s

/-- The codec side channel's answer to START's steps 1 and 2 (44 R233, R234). -/
def State.codecReadyTurn (s : State) (ok : Bool) : State :=
  match s.host.ops with
  | .codecBringUp :: rest =>
    if ok then (s.withOps rest).withEnv { s.env with codecUp := true, codecClk := true }
    else s.withHost { s.host with ops := [], lastError := .codecFailed, result := .error .codecFailed }
  | _ => s

/-- The clock of a codec that is up stops or starts again; before START's step 2 there is none (44 R234,
70 R342). -/
def State.codecClockTurn (s : State) (on : Bool) : State :=
  s.withEnv { s.env with codecClk := on && s.env.codecUp }

/-- What the callback left in one channel's array, `BLOCK_SIZE_A` elements, a missing one a free value
(45 R281; log 23). -/
def callbackArray (out : List Word) (size draws : Nat) : List Word :=
  (List.range size).map (fun i => out.getD i (Config.freeWord (draws + i)))

/-- The callback returns (44 R250, 45 R281). -/
def State.callbackTurn (s : State) (out0 out1 : List Word) (exit : Bool) : State :=
  match s.host.ops with
  | .pipeCall :: rest =>
    let n := s.cfg.blockSizeA
    ((s.withHost { s.host with
      stageOut := ⟨callbackArray out0 n s.env.draws, callbackArray out1 n (s.env.draws + n)⟩
      exitRequested := s.host.exitRequested || exit }).withOps rest).drew (2 * n)
  | _ => s

/-- The application is still inside an earlier call: START, STOP or RESTART has not returned, or HOST
is in another sequence while stopped (44 R235; log 25). -/
def State.callBusy (s : State) : Bool :=
  match s.host.tstate with
  | .stopped => !s.host.ops.isEmpty
  | .running => s.host.exitFlag

/-- `init` fails or succeeds with this diagnostic (60 R304, R305; log 24). -/
def initDiag (c : Cfg) (alloc : AllocOutcome) (inBase outBase : Nat) : Diag :=
  match alloc with
  | .outOfKernelMemory => .outOfKernelMemory
  | .cannotLock => .cannotLock
  | .cannotMap => .cannotMap
  | .ok =>
    if c.wf && decide (inBase + nbrChannels ≤ nbrChannels) && decide (outBase + nbrChannels ≤ nbrChannels)
    then .none else .configChannels

/-- `INIT` (44 R231). The `max_block_size` it returns is a free value (91 N27; log 24). -/
def State.initCall (s : State) (alloc : AllocOutcome) (inBase outBase : Nat) : State :=
  let d := initDiag s.cfg alloc inBase outBase
  if d = .none then
    (s.withHost { s.host with
      inited := true, everInited := true, result := .initOk s.cfg.sampleRate s.free.toNat }).drew 1
  else s.withHost { s.host with inited := false, lastError := d, result := .error d }

/-- `STOP` begins: the exit flag is set, what follows the loop is queued behind it (44 R235, R236). -/
def State.stopCall (s : State) (after : List HostOp) : State :=
  s.withHost { s.host with exitFlag := true, ops := s.host.ops ++ stopOps s.cfg ++ after }

/-- A call of the owning application (44 R230, R231, R233, R235 to R237); any but `init` is refused before
a successful `init` (92 D49; log 25). DEDUCED (log 24): the allocator and the window mapping fail `init`
only. -/
def State.callTurn (s : State) (c : Call) : Res :=
  if s.callBusy then .next s
  else match c with
  | .getLastError =>
    if s.host.everInited then .next (s.returns (.diag s.host.lastError)) else .refused .lifecycle
  | .init alloc i o =>
    if s.host.tstate = .stopped then .next (s.initCall alloc i o) else .refused .lifecycle
  | .start =>
    if s.host.tstate = .stopped ∧ s.host.inited then .next (s.withOps (startOps s.cfg))
    else .refused .lifecycle
  | .stop =>
    if s.host.tstate = .running ∧ s.host.inited then .next (s.stopCall []) else .refused .lifecycle
  | .restart =>
    if s.host.tstate = .running ∧ s.host.inited then .next (s.stopCall (startOps s.cfg))
    else .refused .lifecycle

end Sys2Proof.Machine
end

