-- ==== Sys2Proof/Machine/Agents.lean ====
section
/-! DEFINITION. The turns of the agents: the engine's fetch and step (42 R160 to R169), HOST's issue of
an encoded instruction (40 R120, R121), and what each entry of the schedule does. -/

namespace Sys2Proof.Machine

/-- The eight words of the descriptor at `CONBLK_AD` (42 R163). -/
def State.fetchDesc (s : State) : Desc :=
  let a := s.dma.conblkAd.toNat
  { ti := Memory.readWord s.mem a
    src := Memory.readWord s.mem (a + 4)
    dst := Memory.readWord s.mem (a + 8)
    len := Memory.readWord s.mem (a + 12)
    stride := Memory.readWord s.mem (a + 16)
    next := Memory.readWord s.mem (a + 20)
    rsv0 := Memory.readWord s.mem (a + 24)
    rsv1 := Memory.readWord s.mem (a + 28) }

/-- The descriptor the working registers hold (10_state R16); the reserved words are not loaded. -/
def State.loadedDesc (s : State) : Desc where
  ti := s.dma.ti
  src := s.dma.sourceAd
  dst := s.dma.destAd
  len := s.dma.txfrLen
  stride := s.dma.stride
  next := s.dma.nextconbk
  rsv0 := 0#32
  rsv1 := 0#32

/-- The loaded descriptor as an instruction: its kind is the one its load found, which `TI` shows (30
R94, 42 R163); its data address is judged by the beat (42 R169; log 12). -/
def State.loadedInstr (s : State) : Instr :=
  if s.dma.ti &&& tiMask = 0x00030400#32 then .xferRx s.loadedDesc
  else if s.dma.ti &&& tiMask = 0x00020040#32 then .xferTx s.loadedDesc
  else .xferOther s.loadedDesc

/-- A legal address to load a descriptor from: a multiple of 32 whose 32 bytes lie inside the block (20
R71, 42 R163). DESIGN CHOICE (log 11): where the configuration asks it, it must be a descriptor slot
besides, the wider wording of 20 R68. -/
def State.descAddrOk (s : State) : Bool :=
  let a := s.dma.conblkAd.toNat
  decide (a % 32 = 0) && s.cfg.inBlock a 32 && (s.cfg.isDescSlot a || !s.cfg.descSlotsOnly)

/-- The engine's turn (42 R160 to R169): no step while inactive, faulted or `Idle`; halt on address 0;
fault on a bad address; else the descriptor at `CONBLK_AD`, or the loaded one, runs its next step. -/
def State.dmaTurn (s : State) : Res :=
  if s.engineRuns then
    match s.dma.phase with
    | .idle => .next s
    | .needLoad =>
      if s.dma.conblkAd = 0#32 then .next s.halt
      else if s.descAddrOk then s.runEncoded (.desc s.fetchDesc)
      else .next (s.recordDmaFault .dmaBadDescriptorAddress)
    | .loaded => exec s.loadedInstr s
    | .latched => exec s.loadedInstr s
  else .next s

/-- The schedule's next entry, or a free one when it is used up (log 3). -/
def State.takeTurn (s : State) : Turn × State :=
  match s.env.sched with
  | t :: r => (t, s.withEnv { s.env with sched := r })
  | [] => (Config.freeTurn s.env.draws, s.drew 1)

/-- What one entry of the schedule does. DESIGN CHOICE (log 7): after `PositionUndecodable` the `host` turn
alone has no step; HOST's own transactions, memory accesses and converter operations, calls, and what the
codec and the callback answer go on. -/
def State.runTurn (s : State) (t : Turn) : Res :=
  match t with
  | .dma => s.dmaTurn
  | .rx v => .next (s.rxWord v)
  | .tx => .next s.txWord
  | .reg w => s.runEncoded (.reg w)
  | .cvt sel w0 w1 w2 w3 => s.runEncoded (.cvt sel w0 w1 w2 w3)
  | .memRead a => portRead (s.hostRead a)
  | .memWrite a v => portWrite (s.hostWrite a v)
  | .pseudo p => s.pseudoTurn p
  | .host => s.hostTurn
  | .call c => s.callTurn c
  | .codecReady ok => .next (s.codecReadyTurn ok)
  | .codecClock on => .next (s.codecClockTurn on)
  | .callback out0 out1 exit => .next (s.callbackTurn out0 out1 exit)
  | .requestExit => .next (s.withHost { s.host with exitRequested := true })

/-- The eight words of a descriptor written at an address. -/
def Memory.writeDesc (m : List Host.Cell) (a : Nat) (d : Desc) : List Host.Cell :=
  (List.range 8).foldl (fun m j => Memory.writeWord m (a + 4 * j) (descWord d j)) m

/-- The state whose very next step meets this encoded instruction: a transaction or converter operation
becomes HOST's next turn; a descriptor is stored at `BLOCK_BUS`, `CONBLK_AD` set to it, the engine
running and about to load, and the engine's turn next (log 3). -/
def State.placeNext (s : State) (e : Encoded) : State :=
  match e with
  | .reg w => s.withEnv { s.env with sched := .reg w :: s.env.sched }
  | .cvt sel w0 w1 w2 w3 => s.withEnv { s.env with sched := .cvt sel w0 w1 w2 w3 :: s.env.sched }
  | .desc d =>
    { s with
      dma := { s.dma with active := true, phase := .needLoad, conblkAd := s.cfg.blockBus }
      dmaFault := none
      mem := Memory.writeDesc s.mem s.cfg.blockBus.toNat d
      env := { s.env with sched := .dma :: s.env.sched } }

end Sys2Proof.Machine
end

