-- ==== Sys2Proof/Machine/Step.lean ====
section
/-! DEFINITION. One step of the machine: the next turn of the schedule, and what it does. -/

namespace Sys2Proof.Machine

/-- One step. -/
def step (s : State) : Host.Outcome State Fault Refusal := s.takeTurn.2.runTurn s.takeTurn.1

/-- `s` with the instruction of a row's bits where the next step meets it (log 3). -/
def State.withFetchWord (s : State) (nbits w : Nat) : State := s.placeNext (tableEncoded nbits w)

end Sys2Proof.Machine
end

