-- ==== Sys2Proof/Safety.lean ====
section
/-! DEFINITION. What every state of a run keeps: the machine's invariant in parts, one for each owner of
state, and the invariant of the engine. -/

namespace Sys2Proof.Machine

/-- Every entry of memory lies inside the block: nothing outside it was ever written (10_state R29, 60
R316). -/
def Memory.inside (c : Cfg) (m : List Host.Cell) : Bool := m.all (fun x => c.inBlock x.1 1)

/-- The PCM peripheral: no queue above its capacity (10_state R19), only read-write fields stored in
`CS_A` (R20), no packed, PDM or reserved bit in `MODE_A` (R24), width 24 in every enabled channel (R25),
no reserved bit in `DREQ_A` and `INTEN_A` (R26, R27). -/
def PcmState.inv (c : Cfg) (p : PcmState) : Bool :=
  decide (p.rxfifo.length ≤ c.fifoDepth) && decide (p.txfifo.length ≤ c.fifoDepth) &&
  p.csStored &&& ~~~csAStoredMask == 0#32 && p.modeA &&& (modePacked ||| modeReserved) == 0#32 &&
  widthsOk p.rxcA && widthsOk p.txcA &&
  p.dreqA &&& dreqReserved == 0#32 && p.intenA &&& intenReserved == 0#32

/-- GPIO: six function words, 64 pull settings (10_state R28). -/
def GpioState.inv (g : GpioState) : Bool :=
  decide (g.fsel.length = 6) && decide (g.pull.length = 64)

/-- The DMA channel: only option fields stored beside ACTIVE, END and INT (10_state R15), of the error
bits only `READ_ERROR` (R17). -/
def DmaState.inv (d : DmaState) : Bool :=
  d.opts &&& ~~~dmaCsOpts == 0#32 && d.debugErr &&& 3#3 == 0#3

/-- The staging buffers have `BLOCK_SIZE_A` elements a channel (10_state R30); a usable transport has
been initialised (44 R231, 92 D49). -/
def HostState.inv (c : Cfg) (h : HostState) : Bool :=
  decide (h.stageIn.ch0.length = c.blockSizeA) && decide (h.stageIn.ch1.length = c.blockSizeA) &&
  decide (h.stageOut.ch0.length = c.blockSizeA) && decide (h.stageOut.ch1.length = c.blockSizeA) &&
  (!h.inited || h.everInited)

/-- Only a codec that is up drives a clock (70 R342). -/
def EnvState.inv (e : EnvState) : Bool := !e.codecClk || e.codecUp

/-- The recorded faults are the reasons of their agent (60 R307). -/
def State.faultsNamed (s : State) : Bool :=
  (s.dmaFault == none || s.dmaFault == some .dmaBusError ||
    s.dmaFault == some .dmaBadDescriptorAddress) &&
  (s.host.loopFault == none || s.host.loopFault == some .positionUndecodable)

/-- The machine's invariant. -/
def State.inv (s : State) : Bool :=
  Memory.wf s.mem && Memory.inside s.cfg s.mem && s.pcm.inv s.cfg && s.gpio.inv && s.dma.inv &&
  s.host.inv s.cfg && s.env.inv && s.faultsNamed

/-- An instruction HOST may have pending in a sequence: a register transaction, no descriptor (10_state
R13: only the engine executes descriptors). -/
def isRegInstr : Instr → Bool
  | .xferRx _ | .xferTx _ | .xferOther _ => false
  | .dmaRdcs _ | .dmaReset _ _ | .dmaAbort _ _ | .dmaGo _ _ | .dmaPause _ _ | .dmaRdpos _
  | .dmaSetcb _ _ | .dmaRdti _ | .dmaRdsrc _ | .dmaRddst _ | .dmaRdlen _ | .dmaRdstride _
  | .dmaRdnext _ | .dmaRddbg _ | .dmaClrdbg _ _
  | .pcmRdcs | .pcmWrcs _ | .pcmRdfifo | .pcmWrfifo _ | .pcmRdmode | .pcmWrmode _
  | .pcmRdrxc | .pcmWrrxc _ | .pcmRdtxc | .pcmWrtxc _ | .pcmRddreq | .pcmWrdreq _
  | .pcmRdinten | .pcmWrinten _ | .pcmRdintstc | .pcmWrintstc _
  | .gpioSetfn _ _ _ | .gpioSet _ _ | .gpioClr _ _ | .gpioRead _ | .gpioPud _ | .gpioPudclk _ _ => true
  | .cvtI2f _ | .cvtI2fV4 _ _ _ _ | .cvtF2i _ | .cvtF2iV4 _ _ _ _ => false

/-- A pending HOST operation is no descriptor's. -/
def HostOp.isHost : HostOp → Bool
  | .run i => isRegInstr i
  | .csWrite _ _ | .codecReset | .codecBringUp | .clearRegion _ | .chainBuild _ | .chainBases | .startDone
  | .stopDone | .loopHead | .pipeIn _ _ | .pipeCall | .pipeOut _ _ | .readPosition | .readStatus
  | .clearErrors | .adopt | .notify | .sleep | .busyPoll | .position | .snapshot _
  | .gpioLevel _ | .gpioPull _ _ => true

/-- The engine's invariant: in phases Loaded and Latched the working registers hold an admitted
descriptor (42 R163, R168), `CS.INT` is 0 (60 R309), and HOST's pending operations are HOST's. -/
def State.engineInv (s : State) : Bool :=
  (!s.dma.isLoaded || s.loadedDesc.isRx s.cfg || s.loadedDesc.isTx s.cfg) && !s.dma.intF &&
  s.host.ops.all HostOp.isHost

/-- `n` turns of HOST in a row. -/
def State.hostTurns : Nat → State → Res
  | 0, s => .next s
  | n + 1, s =>
    match s.hostTurn with
    | .next t => State.hostTurns n t
    | .fault f => .fault f
    | .refused r => .refused r

/-- The bus address a descriptor's `next` word names, for the builder's descriptor at `a` (41 R144). -/
def chainHop (c : Cfg) (a : Nat) : Nat := (c.chainDesc ((a - c.descBus) / 32)).next.toNat

/-- The value of a finite binary32 pattern as a rational number. -/
def f32Value (w : Word) : Rat :=
  let x := f32Unpack w
  (if x.neg then -1 else 1) * (x.mant : Rat) * (2 : Rat) ^ x.exp

/-- The pattern is finite: neither an infinity nor a NaN. -/
def f32IsFinite (w : Word) : Bool := decide ((w.extractLsb' 0 31).toNat < 0x7F800000)

end Sys2Proof.Machine
end

