-- ==== Sys2Proof/Certificates/Slice0/Obligations.lean ====
section
/-! DEFINITION. The statements for the provers. Each docstring names the rules of spec/ it formalises. -/

section

open Sys2Proof Sys2Proof.Machine

/-! ### Encoding and the chain -/

/-- Words of 95 V4 and V6, written from 30 R94, R99, R100, R101, decode to the instructions they stand
for. -/
def Obligations.SpecWordsDecode : Prop :=
  decode Cfg.default (.reg 0x1250080000000#49) = .ok (.dmaReset 5#4 0x80000000#32) ∧
  decode Cfg.default (.reg 0x12504DE000000#49) = .ok (.dmaSetcb 5#4 0xDE000000#32) ∧
  decode Cfg.default (.reg 0x1051C00000000#49) = .ok (.dmaRdnext 5#4) ∧
  decode Cfg.default (.reg 0x0A000008182A7#49) = .ok (.pcmWrcs 0x008182A7#32) ∧
  decode Cfg.default (.reg 0x0800400000000#49) = .ok .pcmRdfifo ∧
  decode Cfg.default (.reg 0x0400400000084#49) = .ok (.gpioSetfn 1 8 4#3) ∧
  decode Cfg.default (.reg 0x0209800040000#49) = .ok (.gpioPudclk 0 0x00040000#32) ∧
  decode Cfg.default (.cvt 2#2 0x3F800000#32 0#32 0#32 0#32) = .ok (.cvtF2i 0x3F800000#32) ∧
  decode Cfg.default (.desc ⟨0x04020048#32, 0xDE004400#32, 0x7E203004#32, 4#32, 0#32, 0#32, 0#32, 0#32⟩) =
    .ok (.xferTx ⟨0x04020048#32, 0xDE004400#32, 0x7E203004#32, 4#32, 0#32, 0#32, 0#32, 0#32⟩)

/-- Decoding the encoding of a well-formed instruction gives it back, for every operand (30 R91, R99,
R100, R101). -/
def Obligations.DecodeUndoesEncode : Prop :=
  ∀ (c : Cfg) (i : Instr), c.windowsHold = true → WellFormed c i = true →
    decode c (encode i) = .ok i

/-- No two tuples carry one meaning: a tuple that decodes is the encoding of what it decodes to, the
data of a read aside (30 R99: 0 for a read). That a read's data is ignored and `GPIO.SETFN` data of another
form refused is the model's reading (log 32). -/
def Obligations.ListedTupleReencodes : Prop :=
  ∀ (c : Cfg) (w : BitVec 49) (i : Instr), decode c (.reg w) = .ok i →
    (regFields w).kind ≠ 0#2 ∨ (regFields w).data = 0#32 → encode i = .reg w

/-- A transaction with `o mod 4 ≠ 0` or `o ≥ WIN_SIZE[w]` is refused: it has no effect (40 R122), whether
HOST issues it by itself or in a sequence. -/
def Obligations.IllegalOffsetRefused : Prop :=
  ∀ (s : State) (w : BitVec 49),
    ((regFields w).off.toNat % 4 ≠ 0 ∨ s.cfg.winSize (regFields w).win ≤ (regFields w).off.toNat) →
    (∃ e, s.runTurn (.reg w) = .refused (.badEncoding e)) ∧
    (∀ (i : Instr) (rest : List HostOp), encode i = .reg w →
      ∃ e, s.hostOpStep (.run i) rest = .refused (.badEncoding e)) ∧
    ∀ (clr set : Word) (rest : List HostOp),
      encode (.pcmWrcs ((s.pcm.csStored &&& ~~~clr) ||| set)) = .reg w →
      ∃ e, s.hostOpStep (.csWrite clr set) rest = .refused (.badEncoding e)

/-- The kind of a descriptor is decided by its `ti` word under `TI_MASK` and the conditions on the other
words (30 R94); the reserved words select nothing (30 R98). -/
def Obligations.DescriptorKindsByMask : Prop :=
  ∀ (c : Cfg) (d : Desc),
    let rx := d.ti &&& 0x001F0FF3#32 = 0x00030400#32 ∧ d.src = c.pcmFifoBus ∧
      c.isSlot d.dst.toNat = true ∧ d.len = 4#32 ∧ d.stride = 0#32
    let tx := d.ti &&& 0x001F0FF3#32 = 0x00020040#32 ∧ d.dst = c.pcmFifoBus ∧
      c.isSlot d.src.toNat = true ∧ d.len = 4#32 ∧ d.stride = 0#32
    (decode c (.desc d) = .ok (.xferRx d) ↔ rx) ∧ (decode c (.desc d) = .ok (.xferTx d) ↔ tx) ∧
    (decode c (.desc d) = .ok (.xferOther d) ↔ ¬rx ∧ ¬tx) ∧
    (∀ r0 r1 : Word, Desc.isRx c { d with rsv0 := r0, rsv1 := r1 } = Desc.isRx c d ∧
      Desc.isTx c { d with rsv0 := r0, rsv1 := r1 } = Desc.isTx c d)

/-- The slots of the four buffers (20 R63, R64) are exactly the words of the Sample Region, which is what
the classification of 30 R94 tests (log 12). -/
def Obligations.SlotsAreBufferWords : Prop :=
  ∀ (c : Cfg) (a : Nat), c.wf = true →
    (c.isSlot a = true ↔ ∃ k < 2, ∃ p < c.blockSizeA, ∃ ch < 2,
      a = slotAddr (c.inBase k) p ch ∨ a = slotAddr (c.outBase k) p ch)

/-- What the builder writes for buffer `k`, position `p`, channel `ch` in both directions (41 R142, R143),
`next` being the following slot, wrapping to slot 0 after the last (R144). -/
def Obligations.BuilderDescriptorContents : Prop :=
  ∀ (c : Cfg) (k p ch : Nat), k < 2 → p < c.blockSize → ch < 2 →
    c.chainDesc (((k * c.blockSize + p) * 2 + ch) * 2) =
      { ti := 0x04030408#32
        src := c.pcmFifoBus
        dst := BitVec.ofNat 32 (c.inBase k + (p * 2 + ch) * 4)
        len := 4#32
        stride := 0#32
        next := BitVec.ofNat 32
          (c.descBus + 32 * ((((k * c.blockSize + p) * 2 + ch) * 2 + 1) % c.nDesc))
        rsv0 := 0#32
        rsv1 := 0#32 } ∧
    c.chainDesc (((k * c.blockSize + p) * 2 + ch) * 2 + 1) =
      { ti := 0x04020048#32
        src := BitVec.ofNat 32 (c.outBase k + (p * 2 + ch) * 4)
        dst := c.pcmFifoBus
        len := 4#32
        stride := 0#32
        next := BitVec.ofNat 32
          (c.descBus + 32 * ((((k * c.blockSize + p) * 2 + ch) * 2 + 2) % c.nDesc))
        rsv0 := 0#32
        rsv1 := 0#32 }

/-- `CHAIN.BUILD`, run by HOST to its end with the channel inactive, leaves every word of every descriptor
in memory, records `desc_base` (41 R145, R151), and changes no byte outside the descriptor area. HOST's turns and
the two operations they take are the model's form (log 27). -/
def Obligations.ChainBuildWritesEveryDescriptor : Prop :=
  ∀ (s : State) (rest : List HostOp), s.cfg.wf = true → Memory.wf s.mem = true →
    s.dma.active = false → s.host.loopFault = none →
    s.host.ops = .chainBuild 0 :: .chainBases :: rest →
    ∃ m : List Host.Cell,
      s.hostTurns (8 * s.cfg.nDesc + 2) =
        .next { s with
          mem := m
          host := { s.host with
            ops := rest
            descBase0 := BitVec.ofNat 32 s.cfg.descBus
            descBase1 := BitVec.ofNat 32 (s.cfg.descBus + 32 * s.cfg.descPerBuf) } } ∧
      (∀ i < s.cfg.nDesc, ∀ j < 8,
        Memory.readWord m (s.cfg.descBus + 32 * i + 4 * j) = descWord (s.cfg.chainDesc i) j) ∧
      (∀ a, s.cfg.inDescArea a = false → Memory.readByte m a = Memory.readByte s.mem a)

/-- Following `next` from any descriptor visits every descriptor exactly once before returning to the
start (41 R147). -/
def Obligations.ChainIsOneCycle : Prop :=
  ∀ (c : Cfg) (i : Nat), c.wf = true → i < c.nDesc →
    (chainHop c)^[c.nDesc] (c.descAddr i) = c.descAddr i ∧
    (∀ n, 0 < n → n < c.nDesc → (chainHop c)^[n] (c.descAddr i) ≠ c.descAddr i) ∧
    ∀ j < c.nDesc, ∃ n, n < c.nDesc ∧ (chainHop c)^[n] (c.descAddr i) = c.descAddr j ∧
      ∀ n' < c.nDesc, (chainHop c)^[n'] (c.descAddr i) = c.descAddr j → n' = n

/-- Every descriptor of buffer index `k` addresses a slot of `in[k]` or `out[k]` with `p < BLOCK_SIZE` and
`PCM_FIFO_BUS`, none addresses the descriptor area, and each such slot is addressed by exactly one
descriptor (41 R146). -/
def Obligations.ChainStaysInItsHalf : Prop :=
  ∀ (c : Cfg) (i : Nat), c.wf = true → i < c.nDesc →
    let k := i / c.descPerBuf
    let side (j : Nat) : Word := if j % 2 = 0 then (c.chainDesc j).dst else (c.chainDesc j).src
    (i % 2 = 0 → (c.chainDesc i).isRx c = true ∧
      ∃ p < c.blockSize, ∃ ch < 2, (side i).toNat = slotAddr (c.inBase k) p ch) ∧
    (i % 2 = 1 → (c.chainDesc i).isTx c = true ∧
      ∃ p < c.blockSize, ∃ ch < 2, (side i).toNat = slotAddr (c.outBase k) p ch) ∧
    c.inHalf k (side i).toNat = true ∧ c.inDescArea (side i).toNat = false ∧
    (∀ j < c.nDesc, side j = side i → j = i) ∧
    ∀ b < 2, ∀ p < c.blockSize, ∀ ch < 2,
      (∃ j < c.nDesc, j % 2 = 0 ∧ (side j).toNat = slotAddr (c.inBase b) p ch) ∧
      (∃ j < c.nDesc, j % 2 = 1 ∧ (side j).toNat = slotAddr (c.outBase b) p ch)

/-- `decode_position(desc_addr(idx(k, p, c, d))) = (k, p, c, d)` (41 R149). -/
def Obligations.PositionRoundTrip : Prop :=
  ∀ (c : Cfg) (k : Fin 2) (p ch d : Nat), p < c.blockSize → ch < 2 → d < 2 →
    decodePosition c (c.descBase 0) (c.descBase 1) (c.descAddr (c.descIdx k.val p ch d)) =
      some { buffer := k, frame := p, chan := ch, dir := d }

/-- For both values of `k` the live half and the software-accessible half are disjoint byte ranges (20
R73), and disjoint from the descriptor area. -/
def Obligations.BufferHalvesDisjoint : Prop :=
  ∀ (c : Cfg) (a : Nat),
    (c.inHalf 0 a = true → c.inHalf 1 a = false) ∧
    (c.inHalf 0 a = true ∨ c.inHalf 1 a = true → c.inDescArea a = false)

/-! ### The engine -/

/-- `load`: words 0 to 5 of the descriptor go into the working registers, `phase` becomes Loaded, nothing
else changes (42 R163, 10 R16). -/
def Obligations.LoadFillsWorkingRegisters : Prop :=
  ∀ (s : State) (d : Desc), s.dma.active = true → s.dmaFault = none → s.dma.phase = .needLoad →
    let t : State :=
      { s with dma := { s.dma with
        ti := d.ti, sourceAd := d.src, destAd := d.dst, txfrLen := d.len, stride := d.stride
        nextconbk := d.next, phase := .loaded } }
    exec (.xferRx d) s = .next t ∧ exec (.xferTx d) s = .next t

/-- `XFER.RX`'s two beats (42 R164) and the advance in the write beat's step (R166): the read beat is
enabled by `rx_dreq` and pops the oldest received word; the write beat stores it at `DEST_AD`; while
`rx_dreq` is low a loaded descriptor does not move. -/
def Obligations.XferRxBeats : Prop :=
  ∀ (s : State) (d : Desc), s.dma.active = true → s.dmaFault = none → Memory.wf s.mem = true →
    (s.dma.phase = .loaded → s.rxDreq = false → exec (.xferRx d) s = .next s) ∧
    (s.dma.phase = .loaded → s.rxDreq = true → s.dma.sourceAd = s.cfg.pcmFifoBus →
      ∃ w r, s.pcm.rxfifo = w :: r ∧
        exec (.xferRx d) s = .next { s with
          pcm := { s.pcm with rxfifo := r }
          dma := { s.dma with latch := w, phase := .latched } }) ∧
    (s.dma.phase = .latched → s.dma.destAd ≠ s.cfg.pcmFifoBus → s.dma.destAd.toNat % 4 = 0 →
      s.cfg.inBlock s.dma.destAd.toNat 4 = true →
      ∃ m, exec (.xferRx d) s = .next { s with
          mem := m
          dma := { s.dma with
            txfrLen := 0#32
            endF := true
            conblkAd := s.dma.nextconbk
            intF := s.dma.intF || s.dma.ti.getLsbD 0
            phase := .needLoad } } ∧
        Memory.readWord m s.dma.destAd.toNat = s.dma.latch ∧
        ∀ a, a < s.dma.destAd.toNat ∨ s.dma.destAd.toNat + 4 ≤ a →
          Memory.readByte m a = Memory.readByte s.mem a)

/-- `XFER.TX`'s two beats (42 R165) and the advance (R166): the read beat is enabled by `tx_dreq` and
latches the output slot; the write beat appends the latch to `txfifo`; no byte of memory changes. -/
def Obligations.XferTxBeats : Prop :=
  ∀ (s : State) (d : Desc), s.dma.active = true → s.dmaFault = none →
    (s.dma.phase = .loaded → s.txDreq = false → exec (.xferTx d) s = .next s) ∧
    (s.dma.phase = .loaded → s.txDreq = true → s.dma.sourceAd ≠ s.cfg.pcmFifoBus →
      s.dma.sourceAd.toNat % 4 = 0 → s.cfg.inBlock s.dma.sourceAd.toNat 4 = true →
      exec (.xferTx d) s = .next { s with dma := { s.dma with
        latch := Memory.readWord s.mem s.dma.sourceAd.toNat
        phase := .latched } }) ∧
    (s.dma.phase = .latched → s.dma.destAd = s.cfg.pcmFifoBus →
      s.pcm.txfifo.length < s.cfg.fifoDepth →
      exec (.xferTx d) s = .next { s with
        pcm := { s.pcm with txfifo := s.pcm.txfifo ++ [s.dma.latch] }
        dma := { s.dma with
          txfrLen := 0#32
          endF := true
          conblkAd := s.dma.nextconbk
          intF := s.dma.intF || s.dma.ti.getLsbD 0
          phase := .needLoad } })

/-- About to load from `a`: `a = 0` halts the channel (42 R167); `a mod 32 ≠ 0`, or `[a, a+32)` not inside
the block (20 R71), records the fault and sets `DEBUG.READ_ERROR`, so that `CS.ERROR` reads 1 (92 D13),
changes nothing else, and the engine has no further step. Whether an `a` that is no descriptor slot (R68)
does so too is the model's parameter (log 11). -/
def Obligations.BadDescriptorAddressStopsEngine : Prop :=
  ∀ s : State, s.dma.active = true → s.dmaFault = none → s.dma.phase = .needLoad →
    (s.dma.conblkAd = 0#32 →
      s.dmaTurn = .next { s with dma := { s.dma with active := false, phase := .idle } } ∧
      State.dmaTurn { s with dma := { s.dma with active := false, phase := .idle } } =
        .next { s with dma := { s.dma with active := false, phase := .idle } }) ∧
    (s.dma.conblkAd ≠ 0#32 →
      (s.dma.conblkAd.toNat % 32 ≠ 0 ∨ s.cfg.inBlock s.dma.conblkAd.toNat 32 = false ∨
        s.cfg.descSlotsOnly = true ∧ ∀ i < s.cfg.nDesc, s.dma.conblkAd.toNat ≠ s.cfg.descAddr i) →
      let t : State :=
        { s with
          dmaFault := some .dmaBadDescriptorAddress
          dma := { s.dma with debugErr := s.dma.debugErr ||| 4#3 } }
      s.dmaTurn = .next t ∧ (∀ free : Word, (t.dmaCsWord free).getLsbD 8 = true) ∧ t.dmaTurn = .next t)

/-- A beat whose memory-side address is not a multiple of 4 or lies outside the block (and is not
`PCM_FIFO_BUS`): the fault is recorded, `DEBUG.READ_ERROR` and `CS.ERROR` become 1, the engine has no
further step (42 R169). That the engine's own turn does so for a loaded `TI` of that kind is the model's
reading: once loaded, `TI` shows the kind and the beat judges the address (log 12). -/
def Obligations.BeatBusFaultStopsEngine : Prop :=
  ∀ (s : State) (d : Desc) (a : Word), s.dma.active = true → s.dmaFault = none →
    a ≠ s.cfg.pcmFifoBus → (a.toNat % 4 ≠ 0 ∨ s.cfg.inBlock a.toNat 4 = false) →
    let t : State :=
      { s with
        dmaFault := some .dmaBusError
        dma := { s.dma with debugErr := s.dma.debugErr ||| 4#3 } }
    (s.dma.phase = .latched → s.dma.destAd = a → exec (.xferRx d) s = .next t ∧
      (s.dma.ti &&& 0x001F0FF3#32 = 0x00030400#32 → s.dmaTurn = .next t)) ∧
    (s.dma.phase = .loaded → s.txDreq = true → s.dma.sourceAd = a → exec (.xferTx d) s = .next t ∧
      (s.dma.ti &&& 0x001F0FF3#32 = 0x00020040#32 → s.dmaTurn = .next t)) ∧
    t.dma.error = true ∧ (∀ free : Word, (t.dmaCsWord free).getLsbD 8 = true) ∧
    t.dmaTurn = .next t

/-- A loaded descriptor that is neither `XFER.RX` nor `XFER.TX` is refused (42 R168): whenever the engine
meets one in memory at an address it loads from (20 R71; log 11), and whatever the state. -/
def Obligations.OtherDescriptorRefused : Prop :=
  ∀ s : State, (∀ d : Desc, exec (.xferOther d) s = .refused .xferOther) ∧
    (s.dma.active = true → s.dmaFault = none → s.dma.phase = .needLoad → s.dma.conblkAd ≠ 0#32 →
      s.dma.conblkAd.toNat % 32 = 0 → s.cfg.inBlock s.dma.conblkAd.toNat 32 = true →
      (s.cfg.descSlotsOnly = true → ∃ i < s.cfg.nDesc, s.dma.conblkAd.toNat = s.cfg.descAddr i) →
      s.fetchDesc.isRx s.cfg = false → s.fetchDesc.isTx s.cfg = false →
      s.dmaTurn = .refused .xferOther)

/-- `rx_dreq` and `tx_dreq` (43 R209, R210), and what follows from them there. -/
def Obligations.PacingSignalLevels : Prop :=
  ∀ s : State,
    (s.rxDreq = true ↔ s.pcm.csStored.getLsbD 0 = true ∧ s.pcm.csStored.getLsbD 9 = true ∧
      max 1 (s.pcm.dreqA.extractLsb' 0 7).toNat ≤ s.pcm.rxfifo.length) ∧
    (s.txDreq = true ↔ s.pcm.csStored.getLsbD 0 = true ∧ s.pcm.csStored.getLsbD 9 = true ∧
      s.pcm.txfifo.length < min s.cfg.fifoDepth (s.pcm.dreqA.extractLsb' 8 7).toNat) ∧
    (s.rxDreq = true → s.pcm.rxfifo ≠ []) ∧
    (s.txDreq = true → s.pcm.txfifo.length < s.cfg.fifoDepth) ∧
    (s.pcm.dreqA.extractLsb' 8 7 = 0#7 → s.txDreq = false)

/-- The engine has a step only when `CS.ACTIVE = 1` (42 R160), and none after a fault (60 R307). -/
def Obligations.EngineStepsOnlyWhileActive : Prop :=
  ∀ s : State, s.dma.active = false ∨ s.dmaFault ≠ none →
    s.dmaTurn = .next s ∧ ∀ d : Desc, exec (.xferRx d) s = .next s ∧ exec (.xferTx d) s = .next s

/-- While the channel is active, a step of the whole machine leaves `CONBLK_AD` alone, moves it to the
loaded `next` word (the advance, or an abort), or resets it to 0 (10 R14, 42 R166, R170, R173, R174). -/
def Obligations.PositionMovesOnlyAlongNext : Prop :=
  ∀ s t : State, step s = .next t → s.dma.active = true →
    t.dma.conblkAd = s.dma.conblkAd ∨
    (s.dma.isLoaded = true ∧ t.dma.conblkAd = s.dma.nextconbk ∧ t.dma.phase = .needLoad) ∨
    (t.dma.conblkAd = 0#32 ∧ t.dma.phase = .idle ∧ t.dma.active = false)

/-! ### Transactions on the DMA channel -/

/-- `DMA.SETCB a` (42 R170). -/
def Obligations.SetcbSetsPosition : Prop :=
  ∀ (s : State) (a : Word),
    (s.dma.active = false → exec (.dmaSetcb s.cfg.dmaChannel a) s =
      .next { s with dma := { s.dma with conblkAd := a, phase := .needLoad } }) ∧
    (s.dma.active = true → exec (.dmaSetcb s.cfg.dmaChannel a) s = .refused .setcbActive)

/-- `DMA.GO` (42 R171): `ACTIVE` becomes 1, `END` and `INT` are cleared where `v[1]`, `v[2]` are 1, the
option fields (bits 19:16, 23:20, 28, 29) take the values in `v`; the next engine step of an idle channel
is a load (95 V7, log 10); nothing else changes. -/
def Obligations.GoStartsChannel : Prop :=
  ∀ (s : State) (v : Word), v &&& 0x0F00FE80#32 = 0#32 →
    exec (.dmaGo s.cfg.dmaChannel v) s = .next { s with dma := { s.dma with
      active := true
      endF := s.dma.endF && !v.getLsbD 1
      intF := s.dma.intF && !v.getLsbD 2
      opts := v &&& 0x30FF0000#32
      phase := if s.dma.phase = .idle then .needLoad else s.dma.phase } }

/-- `DMA.PAUSE` (42 R172): `ACTIVE` becomes 0; `phase`, `latch` and all registers are kept, but for `END`
and `INT` where 1 is written to them (20 R70, log 9). -/
def Obligations.PauseKeepsPlace : Prop :=
  ∀ (s : State) (v : Word), v &&& 0x0F00FE80#32 = 0#32 →
    exec (.dmaPause s.cfg.dmaChannel v) s = .next { s with dma := { s.dma with
      active := false
      endF := s.dma.endF && !v.getLsbD 1
      intF := s.dma.intF && !v.getLsbD 2 } }

/-- `DMA.ABORT` (42 R173): a loaded or latched transfer is abandoned and `CONBLK_AD` goes to its `next`;
`ACTIVE` becomes `v[0]`, the option fields their bits of `v` (10 R15, 40 R121; log 9); nothing reaches
memory or a FIFO. `END`, `INT`: 20 R70, log 9. The discarded `latch` keeping its word: log 40. -/
def Obligations.AbortMovesToSuccessor : Prop :=
  ∀ (s : State) (v : Word), v &&& 0x0F00FE80#32 = 0#32 →
    (s.dma.phase = .loaded ∨ s.dma.phase = .latched →
      exec (.dmaAbort s.cfg.dmaChannel v) s = .next { s with dma := { s.dma with
        conblkAd := s.dma.nextconbk
        phase := .needLoad
        active := v.getLsbD 0
        opts := v &&& 0x30FF0000#32
        endF := s.dma.endF && !v.getLsbD 1
        intF := s.dma.intF && !v.getLsbD 2 } }) ∧
    (s.dma.phase = .idle ∨ s.dma.phase = .needLoad →
      exec (.dmaAbort s.cfg.dmaChannel v) s = .next { s with dma := { s.dma with
        active := v.getLsbD 0
        opts := v &&& 0x30FF0000#32
        endF := s.dma.endF && !v.getLsbD 1
        intF := s.dma.intF && !v.getLsbD 2 } })

/-- `DMA.RESET` (42 R174): every field of `CS`, `CONBLK_AD`, the working registers and the `DEBUG` error
bits become 0, `phase` Idle; nothing outside the channel changes, and the engine's next turn does
nothing. That the discarded `latch` reads 0 is the model's reading (70 R330; log 40). -/
def Obligations.ResetClearsChannel : Prop :=
  ∀ (s : State) (v : Word), v &&& 0x0F00FE80#32 = 0#32 →
    let t : State := { s with dma :=
      { active := false, endF := false, intF := false, opts := 0#32, conblkAd := 0#32, ti := 0#32
        sourceAd := 0#32, destAd := 0#32, txfrLen := 0#32, stride := 0#32, nextconbk := 0#32
        debugErr := 0#3, phase := .idle, latch := 0#32 } }
    exec (.dmaReset s.cfg.dmaChannel v) s = .next t ∧ t.dma.error = false ∧ t.dmaTurn = .next t

/-- A write of 1 to a reserved bit of DMA `CS` is refused (10 R15); a transaction on another channel's
registers is no part of the machine (40 R123, the model's reading: log 13). -/
def Obligations.ChannelWriteRefusals : Prop :=
  ∀ (s : State) (ch : BitVec 4) (v : Word),
    (ch = s.cfg.dmaChannel → v &&& 0x0F00FE80#32 ≠ 0#32 →
      exec (.dmaReset ch v) s = .refused .reservedBit ∧ exec (.dmaAbort ch v) s = .refused .reservedBit ∧
      exec (.dmaGo ch v) s = .refused .reservedBit ∧ exec (.dmaPause ch v) s = .refused .reservedBit) ∧
    (ch ≠ s.cfg.dmaChannel → ∀ i ∈ [Instr.dmaRdcs ch, .dmaReset ch v, .dmaAbort ch v, .dmaGo ch v,
        .dmaPause ch v, .dmaRdpos ch, .dmaSetcb ch v, .dmaRdti ch, .dmaRdsrc ch, .dmaRddst ch,
        .dmaRdlen ch, .dmaRdstride ch, .dmaRdnext ch, .dmaRddbg ch, .dmaClrdbg ch v],
      exec i s = .refused .otherDmaChannel)

/-- `DMA.RDPOS` returns `CONBLK_AD` (42 R175) and the six reads return the working registers (R178),
without side effect; a write to a working register is refused (40 R123). -/
def Obligations.ChannelRegisterReads : Prop :=
  ∀ s : State,
    let ret (w : Word) : Res := .next { s with host := { s.host with result := .word w } }
    let ch := s.cfg.dmaChannel
    exec (.dmaRdpos ch) s = ret s.dma.conblkAd ∧ exec (.dmaRdti ch) s = ret s.dma.ti ∧
    exec (.dmaRdsrc ch) s = ret s.dma.sourceAd ∧ exec (.dmaRddst ch) s = ret s.dma.destAd ∧
    exec (.dmaRdlen ch) s = ret s.dma.txfrLen ∧ exec (.dmaRdstride ch) s = ret s.dma.stride ∧
    exec (.dmaRdnext ch) s = ret s.dma.nextconbk ∧
    ∀ (o : BitVec 8) (v : Word), o ∈ [0x08#8, 0x0C#8, 0x10#8, 0x14#8, 0x18#8, 0x1C#8] →
      ∃ e, s.runEncoded (.reg (regPack ⟨2#2, 1#2, 0#1 ++ ch ++ o, v⟩)) = .refused (.badEncoding e)

/-- `DMA.RDCS` returns the fields of 10 R15 without side effect (42 R176): the others are any value, one
free word used up. -/
def Obligations.ChannelStatusRead : Prop :=
  ∀ s : State, s.dma.inv = true →
    ∃ w : Word,
      exec (.dmaRdcs s.cfg.dmaChannel) s = .next { s with
        host := { s.host with result := .word w }
        env := { s.env with draws := s.env.draws + 1 } } ∧
      w.getLsbD 0 = s.dma.active ∧ w.getLsbD 1 = s.dma.endF ∧ w.getLsbD 2 = s.dma.intF ∧
      w.getLsbD 8 = decide (s.dma.debugErr ≠ 0#3) ∧
      w.extractLsb' 16 4 = s.dma.opts.extractLsb' 16 4 ∧
      w.extractLsb' 20 4 = s.dma.opts.extractLsb' 20 4 ∧
      w.getLsbD 28 = s.dma.opts.getLsbD 28 ∧ w.getLsbD 29 = s.dma.opts.getLsbD 29 ∧
      w.getLsbD 30 = false ∧ w.getLsbD 31 = false ∧
      (s.dma.phase = .loaded ∨ s.dma.phase = .latched →
        (s.loadedDesc.isTx s.cfg = true → w.getLsbD 3 = s.txDreq) ∧
        (s.loadedDesc.isRx s.cfg = true → w.getLsbD 3 = s.rxDreq))

/-- `DMA.RDDBG` returns `DEBUG[2:0]`, the other fields any value; `DMA.CLRDBG v` clears each of bits 2:0
where `v` has 1, `CS.ERROR` follows, and a recorded fault stays (42 R177). -/
def Obligations.DebugReadAndClear : Prop :=
  ∀ (s : State) (v : Word),
    (∃ w : Word,
      exec (.dmaRddbg s.cfg.dmaChannel) s = .next { s with
        host := { s.host with result := .word w }
        env := { s.env with draws := s.env.draws + 1 } } ∧
      w.extractLsb' 0 3 = s.dma.debugErr) ∧
    ∃ e : BitVec 3,
      exec (.dmaClrdbg s.cfg.dmaChannel v) s = .next { s with dma := { s.dma with debugErr := e } } ∧
      (∀ i < 3, e.getLsbD i = (s.dma.debugErr.getLsbD i && !v.getLsbD i)) ∧
      (s.dma.inv = true → ∀ free : Word,
        (State.dmaCsWord { s with dma := { s.dma with debugErr := e } } free).getLsbD 8 = decide (e ≠ 0#3))

/-! ### Transactions on the PCM peripheral -/

/-- `PCM.RDCS` (43 R191, 10 R20): stored fields as last written, the error flags as they stand, `TXD`,
`RXD`, `TXE`, `RXF` computed from the FIFO levels, `TXCLR`, `RXCLR` as 0, the others any value; no side
effect. -/
def Obligations.PcmStatusRead : Prop :=
  ∀ s : State, s.pcm.inv s.cfg = true →
    ∃ w : Word,
      exec .pcmRdcs s = .next { s with
        host := { s.host with result := .word w }
        env := { s.env with draws := s.env.draws + 1 } } ∧
      (∀ i ∈ [0, 1, 2, 5, 6, 7, 8, 9, 23, 25], w.getLsbD i = s.pcm.csStored.getLsbD i) ∧
      w.getLsbD 3 = false ∧ w.getLsbD 4 = false ∧
      w.getLsbD 15 = s.pcm.txErr ∧ w.getLsbD 16 = s.pcm.rxErr ∧
      w.getLsbD 19 = decide (s.pcm.txfifo.length < s.cfg.fifoDepth) ∧
      w.getLsbD 20 = decide (1 ≤ s.pcm.rxfifo.length) ∧
      w.getLsbD 21 = decide (s.pcm.txfifo.length = 0) ∧
      w.getLsbD 22 = decide (s.pcm.rxfifo.length = s.cfg.fifoDepth)

/-- `PCM.WRCS v` (43 R192, R195, R196, R197): reserved bits refused; write-1-to-clear error flags; FIFO
clears; every read-write field takes the corresponding bit of `v`; bits at read-only positions ignored;
nothing else changes but the place in the frame of a direction that starts (log 16). -/
def Obligations.PcmStatusWrite : Prop :=
  ∀ (s : State) (v : Word),
    (v &&& 0xFC001C00#32 ≠ 0#32 → exec (.pcmWrcs v) s = .refused .reservedBit) ∧
    (v &&& 0xFC001C00#32 = 0#32 →
      ∃ (cs : Word) (rp tp : Slot),
        exec (.pcmWrcs v) s = .next { s with pcm := { s.pcm with
          csStored := cs
          txErr := s.pcm.txErr && !v.getLsbD 15
          rxErr := s.pcm.rxErr && !v.getLsbD 16
          txfifo := if v.getLsbD 3 then [] else s.pcm.txfifo
          rxfifo := if v.getLsbD 4 then [] else s.pcm.rxfifo
          rxPos := rp
          txPos := tp } } ∧
        (∀ i ∈ [0, 1, 2, 5, 6, 7, 8, 9, 23, 24, 25], cs.getLsbD i = v.getLsbD i) ∧
        (∀ i ∈ [3, 4, 10, 11, 12, 13, 14, 15, 16, 17, 18, 19, 20, 21, 22, 26, 27, 28, 29, 30, 31],
          cs.getLsbD i = false) ∧
        (¬(v.getLsbD 0 = true ∧ v.getLsbD 1 = true) ∨ s.pcm.rxRuns = true → rp = s.pcm.rxPos) ∧
        (¬(v.getLsbD 0 = true ∧ v.getLsbD 2 = true) ∨ s.pcm.txRuns = true → tp = s.pcm.txPos))

/-- The FIFO port (43 R194, R198, R199): a read returns and removes the oldest word of `rxfifo`, a write
appends to `txfifo`; empty, full, or `EN = 0`: refused. -/
def Obligations.FifoPortPopsAndPushes : Prop :=
  ∀ (s : State) (v : Word),
    (s.pcm.csStored.getLsbD 0 = false →
      exec .pcmRdfifo s = .refused .pcmDisabled ∧ exec (.pcmWrfifo v) s = .refused .pcmDisabled) ∧
    (s.pcm.csStored.getLsbD 0 = true →
      (∀ w r, s.pcm.rxfifo = w :: r → exec .pcmRdfifo s = .next { s with
        pcm := { s.pcm with rxfifo := r }
        host := { s.host with result := .word w } }) ∧
      (s.pcm.rxfifo = [] → exec .pcmRdfifo s = .refused .rxFifoEmpty) ∧
      (s.pcm.txfifo.length < s.cfg.fifoDepth → exec (.pcmWrfifo v) s =
        .next { s with pcm := { s.pcm with txfifo := s.pcm.txfifo ++ [v] } }) ∧
      (s.cfg.fifoDepth ≤ s.pcm.txfifo.length → exec (.pcmWrfifo v) s = .refused .txFifoFull))

/-- The configuration registers are plain storage (43 R200 to R204): a write stores the word, a read
returns it; nothing else changes. -/
def Obligations.PcmConfigurationStored : Prop :=
  ∀ (s : State) (v : Word),
    let ret (w : Word) : Res := .next { s with host := { s.host with result := .word w } }
    let ok24 := (v.getLsbD 30 = true → v.getLsbD 31 = true ∧ v.extractLsb' 16 4 = 0#4) ∧
      (v.getLsbD 14 = true → v.getLsbD 15 = true ∧ v.extractLsb' 0 4 = 0#4)
    exec .pcmRdmode s = ret s.pcm.modeA ∧ exec .pcmRdrxc s = ret s.pcm.rxcA ∧
    exec .pcmRdtxc s = ret s.pcm.txcA ∧ exec .pcmRddreq s = ret s.pcm.dreqA ∧
    exec .pcmRdinten s = ret s.pcm.intenA ∧
    (s.pcm.csStored.getLsbD 0 = true →
      (v &&& 0xE7000000#32 = 0#32 →
        exec (.pcmWrmode v) s = .next { s with pcm := { s.pcm with modeA := v } }) ∧
      (ok24 → exec (.pcmWrrxc v) s = .next { s with pcm := { s.pcm with rxcA := v } } ∧
        exec (.pcmWrtxc v) s = .next { s with pcm := { s.pcm with txcA := v } }) ∧
      (v &&& 0x80808080#32 = 0#32 →
        exec (.pcmWrdreq v) s = .next { s with pcm := { s.pcm with dreqA := v } }) ∧
      (v &&& 0xFFFFFFF0#32 = 0#32 →
        exec (.pcmWrinten v) s = .next { s with pcm := { s.pcm with intenA := v } }))

/-- What the configuration registers refuse: `FTXP`, `FRXP`, `PDME` or a reserved bit in `MODE_A` (43
R200), a width other than 24 in an enabled channel (R201, R202), a reserved bit in `DREQ_A` (R203), a
bit above 3 in `INTEN_A` (R204); with `EN = 0`, programming at all (93 U20; log 14). -/
def Obligations.PcmConfigurationRefused : Prop :=
  ∀ (s : State) (v : Word),
    let bad24 := (v.getLsbD 30 = true ∧ (v.getLsbD 31 = false ∨ v.extractLsb' 16 4 ≠ 0#4)) ∨
      (v.getLsbD 14 = true ∧ (v.getLsbD 15 = false ∨ v.extractLsb' 0 4 ≠ 0#4))
    (s.pcm.csStored.getLsbD 0 = true →
      (v &&& 0xE7000000#32 ≠ 0#32 → ∃ r, exec (.pcmWrmode v) s = .refused r) ∧
      (bad24 → (∃ r, exec (.pcmWrrxc v) s = .refused r) ∧ ∃ r, exec (.pcmWrtxc v) s = .refused r) ∧
      (v &&& 0x80808080#32 ≠ 0#32 → ∃ r, exec (.pcmWrdreq v) s = .refused r) ∧
      (v &&& 0xFFFFFFF0#32 ≠ 0#32 → ∃ r, exec (.pcmWrinten v) s = .refused r)) ∧
    (s.pcm.csStored.getLsbD 0 = false →
      ∀ i ∈ [Instr.pcmWrmode v, .pcmWrrxc v, .pcmWrtxc v, .pcmWrdreq v, .pcmWrinten v],
        exec i s = .refused .pcmDisabled)

/-- `PCM.RDINTSTC` returns any value, `PCM.WRINTSTC` has no effect (43 R205). -/
def Obligations.InterruptStatusIsInert : Prop :=
  ∀ (s : State) (v : Word),
    (∃ w : Word, exec .pcmRdintstc s = .next { s with
      host := { s.host with result := .word w }
      env := { s.env with draws := s.env.draws + 1 } }) ∧
    exec (.pcmWrintstc v) s = .next s

/-- The receive word event of slot `sl` (43 R213, R214): room, and the codec's 24 bits are queued,
sign-extended with `RXSEX = 1` and zero-extended with 0; none, and the word is lost and `RXERR` set; the
queue position aside nothing else changes (60 R311). -/
def Obligations.ReceiveWordEvent : Prop :=
  ∀ (s : State) (v : BitVec 24) (sl : Slot), s.rxEvent = some sl →
    (s.pcm.rxfifo.length < s.cfg.fifoDepth →
      ∃ w : Word, w.extractLsb' 0 24 = v ∧
        (∀ i, 24 ≤ i → i < 32 → w.getLsbD i = (s.pcm.csStored.getLsbD 23 && v.getLsbD 23)) ∧
        s.runTurn (.rx v) = .next { s with pcm := { s.pcm with
          rxfifo := s.pcm.rxfifo ++ [w]
          rxPos := sl.succ } }) ∧
    (s.cfg.fifoDepth ≤ s.pcm.rxfifo.length →
      s.runTurn (.rx v) = .next { s with pcm := { s.pcm with rxErr := true, rxPos := sl.succ } })

/-- The transmit word event of slot `sl` (43 R215): the oldest word of `txfifo` is removed and its bits
23:0 sent; with none, `TXERR` is set and some value is sent; nothing else changes (60 R311). -/
def Obligations.TransmitWordEvent : Prop :=
  ∀ (s : State) (sl : Slot), s.txEvent = some sl →
    (∀ w r, s.pcm.txfifo = w :: r → s.runTurn .tx = .next { s with
      pcm := { s.pcm with txfifo := r, txPos := sl.succ }
      env := { s.env with codecOut := s.env.codecOut ++ [⟨sl, w.extractLsb' 0 24⟩] } }) ∧
    (s.pcm.txfifo = [] → ∃ x : BitVec 24, s.runTurn .tx = .next { s with
      pcm := { s.pcm with txErr := true, txPos := sl.succ }
      env := { s.env with
        codecOut := s.env.codecOut ++ [⟨sl, x⟩]
        draws := s.env.draws + 1 } })

/-- Which word event can happen (43 R212): exactly, with `EN`, the direction's enable and the codec's
clock, the earliest slot of an enabled channel that the direction has not passed, a receive event once
the transmit event of its slot has happened (c), a transmit event once the receive event two frames back
has (d); nothing else holds one back. -/
def Obligations.WordEventOrder : Prop :=
  ∀ (s : State) (sl : Slot),
    (s.rxEvent = some sl ↔
      s.env.codecClk = true ∧ s.pcm.csStored.getLsbD 0 = true ∧ s.pcm.csStored.getLsbD 1 = true ∧
      chanEn s.pcm.rxcA sl.chan = true ∧ sl.before s.pcm.rxPos = false ∧
      (∀ x : Slot, x.before s.pcm.rxPos = false → x.before sl = true →
        chanEn s.pcm.rxcA x.chan = false) ∧
      (s.pcm.txRuns = true → chanEn s.pcm.txcA sl.chan = true → sl.before s.pcm.txPos = true)) ∧
    (s.txEvent = some sl ↔
      s.env.codecClk = true ∧ s.pcm.csStored.getLsbD 0 = true ∧ s.pcm.csStored.getLsbD 2 = true ∧
      chanEn s.pcm.txcA sl.chan = true ∧ sl.before s.pcm.txPos = false ∧
      (∀ x : Slot, x.before s.pcm.txPos = false → x.before sl = true →
        chanEn s.pcm.txcA x.chan = false) ∧
      (s.pcm.rxRuns = true → chanEn s.pcm.rxcA sl.chan = true → 2 ≤ sl.frame →
        Slot.before ⟨sl.frame - 2, sl.chan⟩ s.pcm.rxPos = true))

/-! ### GPIO -/

/-- `GPIO.SETFN` (40 R125): the field of the pin takes the code, the other bits of the word and the other
words are unchanged; a pin the SoC does not have is refused. -/
def Obligations.SetfnWritesOneField : Prop :=
  ∀ (s : State) (reg : Fin 6) (field : Fin 10) (f : BitVec 3),
    (10 * reg.val + field.val < s.cfg.nbrPins → s.gpio.fsel.length = 6 →
      ∃ w : Word,
        exec (.gpioSetfn reg field f) s =
          .next { s with gpio := { s.gpio with fsel := s.gpio.fsel.set reg.val w } } ∧
        (∀ j < 3, w.getLsbD (3 * field.val + j) = f.getLsbD j) ∧
        (∀ i, i < 3 * field.val ∨ 3 * field.val + 3 ≤ i →
          w.getLsbD i = (s.gpio.fsel.getD reg.val 0#32).getLsbD i)) ∧
    (s.cfg.nbrPins ≤ 10 * reg.val + field.val → exec (.gpioSetfn reg field f) s = .refused .noSuchPin)

/-- `GPIO.SET` and `GPIO.CLR` (40 R126, R127): the pins whose bit is 1 go to 1, or to 0; the others are
unchanged. That this takes in the bits of pins the SoC lacks is the model's choice (log 18). -/
def Obligations.SetClearDriveListedPins : Prop :=
  ∀ (s : State) (bank : Fin 2) (v : Word),
    (∃ o : BitVec 64, exec (.gpioSet bank v) s = .next { s with gpio := { s.gpio with out := o } } ∧
      ∀ b : Fin 2, ∀ i < 32, o.getLsbD (32 * b.val + i) =
        (s.gpio.out.getLsbD (32 * b.val + i) || (decide (b = bank) && v.getLsbD i))) ∧
    (∃ o : BitVec 64, exec (.gpioClr bank v) s = .next { s with gpio := { s.gpio with out := o } } ∧
      ∀ b : Fin 2, ∀ i < 32, o.getLsbD (32 * b.val + i) =
        (s.gpio.out.getLsbD (32 * b.val + i) && !(decide (b = bank) && v.getLsbD i)))

/-- `GPIO.READ` (40 R129, 10 R28): in the level word of a bank the bit of an output pin is its output
level, another bit any value; `GPIO.READ p` returns the one bit of its pin; no side effect. Which
function code makes a pin an output is the model's parameter (log 18); from pin 64 on no register is
listed (40 R123). -/
def Obligations.LevelReadShowsOutputs : Prop :=
  ∀ (s : State),
    (∀ bank : Fin 2, ∃ w : Word,
      exec (.gpioRead bank) s = .next { s with
        host := { s.host with result := .word w }
        env := { s.env with draws := s.env.draws + 1 } } ∧
      ∀ i < 32, 32 * bank.val + i < s.cfg.nbrPins → 32 * bank.val + i < 60 →
        (s.gpio.fsel.getD ((32 * bank.val + i) / 10) 0#32).extractLsb'
          (3 * ((32 * bank.val + i) % 10)) 3 = s.cfg.gpioOutFn →
        w.getLsbD i = s.gpio.out.getLsbD (32 * bank.val + i)) ∧
    ∀ (pin : Nat) (rest : List HostOp),
      (pin < 64 → s.runTurn (.pseudo (.gpioRead pin)) =
        .next { s with host := { s.host with ops := .gpioLevel pin :: s.host.ops } }) ∧
      (pin < 64 → 0x34 + 4 * (pin / 32) < s.cfg.winGpio → ∃ w : Word,
        s.hostOpStep (.gpioLevel pin) rest = .next { s with
          host := { s.host with result := .word w, ops := rest }
          env := { s.env with draws := s.env.draws + 1 } } ∧
        (∀ i, 1 ≤ i → w.getLsbD i = false) ∧
        (pin < s.cfg.nbrPins → pin < 60 →
          (s.gpio.fsel.getD (pin / 10) 0#32).extractLsb' (3 * (pin % 10)) 3 = s.cfg.gpioOutFn →
          w.getLsbD 0 = s.gpio.out.getLsbD pin)) ∧
      (pin < 64 → s.cfg.winGpio ≤ 0x34 + 4 * (pin / 32) →
        ∃ e, s.hostOpStep (.gpioLevel pin) rest = .refused (.badEncoding e)) ∧
      (64 ≤ pin → s.runTurn (.pseudo (.gpioRead pin)) = .refused .noSuchPin)

/-- `GPIO.PUD`, `GPIO.PUDCLK` and `GPIO.PULL` (40 R130): the control register holds the mode (0 none, 1
down, 2 up); the pins clocked take it, the others keep theirs; the whole sequence is one step that sets
one pin. The model's choice: any word is stored as the control value, one other than 0, 1, 2 selects a
free mode, and a separate clock write sets the pulls at once (log 19); a pin below 64 that the SoC lacks
is programmed, from 64 on none is (log 18). -/
def Obligations.PullProgramming : Prop :=
  ∀ (s : State) (bank : Fin 2) (v : Word),
    exec (.gpioPud v) s = .next { s with gpio := { s.gpio with pullCtl := v } } ∧
    (∃ (l : List Pull) (m : Pull),
      exec (.gpioPudclk bank v) s = .next { s with
        gpio := { s.gpio with pull := l }
        env := { s.env with draws := s.env.draws + 1 } } ∧
      (∀ b : Fin 2, ∀ i < 32, l.getD (32 * b.val + i) .none =
        if b = bank ∧ v.getLsbD i = true then m else s.gpio.pull.getD (32 * b.val + i) .none) ∧
      (s.gpio.pullCtl = 0#32 → m = .none) ∧ (s.gpio.pullCtl = 1#32 → m = .down) ∧
      (s.gpio.pullCtl = 2#32 → m = .up)) ∧
    ∀ (pin : Nat) (m : Pull) (rest : List HostOp),
      (pin < 64 → s.runTurn (.pseudo (.gpioPull pin m)) =
        .next { s with host := { s.host with ops := .gpioPull pin m :: s.host.ops } }) ∧
      (pin < 64 → 0x98 + 4 * (pin / 32) < s.cfg.winGpio →
        s.hostOpStep (.gpioPull pin m) rest = .next { s with
          gpio := { s.gpio with pull := s.gpio.pull.set pin m, pullCtl := 0#32 }
          host := { s.host with ops := rest } }) ∧
      (pin < 64 → s.cfg.winGpio ≤ 0x98 + 4 * (pin / 32) →
        ∃ e, s.hostOpStep (.gpioPull pin m) rest = .refused (.badEncoding e)) ∧
      (64 ≤ pin → s.runTurn (.pseudo (.gpioPull pin m)) = .refused .noSuchPin)

/-! ### The converter -/

/-- The converter's results (45 R271, R273, R276, R279): the formula of each scalar form over the rounding
`fl` (written out below), and in each lane of a vector form what the scalar form gives for that lane's
operand; a NaN gives some word (R277) and affects only its lane. Nothing else changes (R270). -/
def Obligations.ConverterOperationResults : Prop :=
  ∀ (s : State) (w0 w1 w2 w3 : Word),
    let toF (w : Word) : Word := f32Mul (f32Round (decide (w.toInt < 0)) w.toInt.natAbs 0) 0x34000001#32
    let toI (f g : Word) : Prop := f32IsNaN f = false →
      g = BitVec.ofInt 32 (roundToInt s.cfg.f2iRound
        (f32Mul (f32Clamp f 0xBF800000#32 0x3F800000#32) 0x4AFFFFFE#32))
    exec (.cvtI2f w0) s = .next { s with host := { s.host with result := .word (toF w0) } } ∧
    exec (.cvtI2fV4 w0 w1 w2 w3) s = .next { s with
      host := { s.host with result := .vec (toF w0) (toF w1) (toF w2) (toF w3) } } ∧
    (∃ g, toI w0 g ∧ exec (.cvtF2i w0) s = .next { s with
      host := { s.host with result := .word g }
      env := { s.env with draws := s.env.draws + 1 } }) ∧
    (∃ g0 g1 g2 g3, toI w0 g0 ∧ toI w1 g1 ∧ toI w2 g2 ∧ toI w3 g3 ∧
      exec (.cvtF2iV4 w0 w1 w2 w3) s = .next { s with
        host := { s.host with result := .vec g0 g1 g2 g3 }
        env := { s.env with draws := s.env.draws + 4 } })

/-- `f2i(i2f(w)) = w` for every sign-extended 24-bit `w` but `−2^23`, which gives `−(2^23 − 1)`, under either
rounding mode (45 R285). -/
def Obligations.ConverterRoundTrip : Prop :=
  ∀ (mode : Rounding) (nan : Word) (v : BitVec 24),
    (v ≠ 0x800000#24 → f2i mode nan (i2f (v.signExtend 32)) = v.signExtend 32) ∧
    (v = 0x800000#24 → i2f (v.signExtend 32) = 0xBF800001#32 ∧
      f2i mode nan (i2f (v.signExtend 32)) = 0xFF800001#32)

/-- After the clamp the result lies in `−8388607 .. 8388607`, for every operand that is no NaN and both
rounding modes (45 R273); at and beyond `±1.0`, infinities included, it is the end of that range
(R274). -/
def Obligations.FloatToIntStaysInRange : Prop :=
  ∀ (mode : Rounding) (nan f : Word), f32IsNaN f = false →
    (-8388607 ≤ (f2i mode nan f).toInt ∧ (f2i mode nan f).toInt ≤ 8388607) ∧
    (f.getLsbD 31 = false → 0x3F800000 ≤ f.toNat → f2i mode nan f = 0x007FFFFF#32) ∧
    (f.getLsbD 31 = true → 0xBF800000 ≤ f.toNat → f2i mode nan f = 0xFF800001#32)

/-- `fl(x)` rounds `x` to nearest, ties to even (00 R7): no finite binary32 value is nearer to `±m·2^e`
than the one `f32Round` gives, whenever it gives a finite one, and where another value is as near the one
given has its last bit 0. -/
def Obligations.RoundingIsNearest : Prop :=
  ∀ (neg : Bool) (m : Nat) (e : Int) (w : Word),
    f32IsFinite (f32Round neg m e) = true → f32IsFinite w = true →
    let x : Rat := (if neg then -1 else 1) * (m : Rat) * (2 : Rat) ^ e
    |f32Value (f32Round neg m e) - x| ≤ |f32Value w - x| ∧
    (|f32Value (f32Round neg m e) - x| = |f32Value w - x| → f32Value w ≠ f32Value (f32Round neg m e) →
      (f32Round neg m e).getLsbD 0 = false)

/-! ### HOST -/

/-- HOST's accesses to a word of the block (20 R66, R67): a read returns the word, and is marked `race` in
the live half; a write is refused in the descriptor area while the channel is active (R78) and in the
live half (R75, R76), else it stores the word and no other byte; outside the block both are refused. -/
def Obligations.HostMemoryAccess : Prop :=
  ∀ (s : State) (a v : Word), Memory.wf s.mem = true → a ≠ s.cfg.pcmFifoBus →
    let live := s.dma.active = true ∧ ∃ p, decodePosition s.cfg (s.cfg.descBase 0) (s.cfg.descBase 1)
      s.dma.conblkAd.toNat = some p ∧ s.cfg.inHalf p.buffer.val a.toNat = true
    (a.toNat % 4 ≠ 0 ∨ s.cfg.inBlock a.toNat 4 = false →
      s.runTurn (.memRead a) = .refused .hostAddress ∧
      s.runTurn (.memWrite a v) = .refused .hostAddress) ∧
    (a.toNat % 4 = 0 → s.cfg.inBlock a.toNat 4 = true →
      (live → s.runTurn (.memRead a) = .next { s with host := { s.host with
        race := true, result := .word (Memory.readWord s.mem a.toNat) } }) ∧
      (¬live → s.runTurn (.memRead a) = .next { s with host := { s.host with
        result := .word (Memory.readWord s.mem a.toNat) } }) ∧
      (s.dma.active = true → s.cfg.inDescArea a.toNat = true →
        s.runTurn (.memWrite a v) = .refused .descriptorWrite) ∧
      (live → s.runTurn (.memWrite a v) = .refused .liveHalfWrite) ∧
      (¬live → ¬(s.dma.active = true ∧ s.cfg.inDescArea a.toNat = true) →
        ∃ m, s.runTurn (.memWrite a v) = .next { s with mem := m } ∧
          Memory.readWord m a.toNat = v ∧
          ∀ b, b < a.toNat ∨ a.toNat + 4 ≤ b → Memory.readByte m b = Memory.readByte s.mem b))

/-- Loop steps 2 and 7 (44 R242, R247, R248): step 2 adopts the decoded position; step 7 leaves only when
the decoded buffer differs from `cur_buf`, which it adopts, and otherwise reads again with nothing
changed; a position that does not decode is recorded as a fault and the loop has no next step (41
R148). Where the register lies outside the window its read is refused (40 R122). -/
def Obligations.LoopFollowsPosition : Prop :=
  ∀ (s : State) (rest : List HostOp), s.host.loopFault = none →
    let pos := decodePosition s.cfg s.host.descBase0.toNat s.host.descBase1.toNat s.dma.conblkAd.toNat
    let bad : State := { s with host := { s.host with loopFault := some .positionUndecodable } }
    let inWin := 256 * s.cfg.dmaChannel.toNat + 4 < s.cfg.winDma
    (s.host.ops = .readPosition :: rest → inWin →
      (∀ p, pos = some p → s.hostTurn = .next { s with host := { s.host with
        hwBuf := p.buffer, hwFrame := p.frame, hwChan := p.chan, ops := rest } }) ∧
      (pos = none → s.hostTurn = .next bad ∧ bad.hostTurn = .next bad)) ∧
    (s.host.ops = .busyPoll :: rest → inWin →
      (∀ p, pos = some p → p.buffer ≠ s.host.curBuf → s.hostTurn = .next { s with host :=
        { s.host with curBuf := p.buffer, ops := rest } }) ∧
      (∀ p, pos = some p → p.buffer = s.host.curBuf → s.hostTurn = .next s) ∧
      (pos = none → s.hostTurn = .next bad ∧ bad.hostTurn = .next bad)) ∧
    (s.host.ops = .readPosition :: rest ∨ s.host.ops = .busyPoll :: rest → ¬inWin →
      ∃ e, s.hostTurn = .refused (.badEncoding e))

/-- Loop steps 3 to 5 taken together (44 R243, R244, R245, 60 R310): the error flags found set are cleared
at the peripheral and nothing else of it changes; `cur_buf` becomes the hardware's buffer; one dropout
is counted if any error was raised in the iteration, else none. With no window to reach `CS_A` through,
the read is refused (40 R122). -/
def Obligations.OneDropoutPerIteration : Prop :=
  ∀ (s : State) (rest : List HostOp), s.pcm.inv s.cfg = true → s.host.loopFault = none →
    s.host.ops = .readStatus :: .clearErrors :: .adopt :: .notify :: rest →
    let err := s.host.err || s.pcm.txErr || s.pcm.rxErr || decide (s.host.hwBuf ≠ s.host.curBuf)
    (s.cfg.winPcm = 0 → ∃ e, s.hostTurns 4 = .refused (.badEncoding e)) ∧
    (0 < s.cfg.winPcm → ∃ w : Word,
      s.hostTurns 4 = .next { s with
        pcm := { s.pcm with txErr := false, rxErr := false }
        host := { s.host with
          ops := rest
          err := err
          curBuf := s.host.hwBuf
          dropouts := s.host.dropouts + if err then 1 else 0
          pollCs := w }
        env := { s.env with draws := s.env.draws + 1 } })

/-- The sequences HOST begins, in the spec's order (44 R230, R233, R235, R240, R241): `START` is legal when
Stopped and after a successful `INIT` (92 D49), `STOP` and `RESTART` when Running; elsewhere refused; the
loop head leaves on `exit_flag` and
otherwise begins the seven steps on the pair that is not `cur_buf`. -/
def Obligations.LifecycleSequences : Prop :=
  ∀ s : State,
    let start : List HostOp :=
      [.codecReset, .codecBringUp, .run (.pcmWrcs 0x00000001#32), .run (.pcmWrmode 0x00A0FC20#32),
       .run (.pcmWrrxc 0xC010C210#32), .run (.pcmWrtxc 0xC010C210#32),
       .run (.pcmWrdreq (0x10100000#32 + (BitVec.ofNat 32 s.cfg.txReqLevel <<< 8) +
         BitVec.ofNat 32 s.cfg.rxReqLevel)),
       .run (.pcmWrinten 0#32), .run (.pcmWrcs 0x008002A1#32),
       .run .pcmRdcs, .csWrite 0#32 0x00018018#32, .clearRegion 0, .chainBuild 0, .chainBases,
       .run (.dmaReset s.cfg.dmaChannel 0x80000000#32),
       .run (.dmaSetcb s.cfg.dmaChannel s.cfg.blockBus),
       .run (.dmaGo s.cfg.dmaChannel 0x00000001#32)] ++
      List.replicate s.cfg.prefillWords (.run (.pcmWrfifo 0#32)) ++
      [.run .pcmRdcs, .csWrite 0#32 0x00000006#32, .startDone]
    let stop : List HostOp :=
      [.run .pcmRdcs, .csWrite 0x00000207#32 0#32, .run (.dmaAbort s.cfg.dmaChannel 0x40000000#32),
       .run (.dmaReset s.cfg.dmaChannel 0x80000000#32), .stopDone]
    let k := 1 - s.host.curBuf
    (s.host.tstate = .stopped → s.host.ops = [] → s.host.inited = true →
      s.runTurn (.call .start) = .next { s with host := { s.host with ops := start } }) ∧
    (s.host.tstate = .stopped → s.host.ops = [] →
      (s.host.inited = false → s.runTurn (.call .start) = .refused .lifecycle) ∧
      s.runTurn (.call .stop) = .refused .lifecycle ∧
      s.runTurn (.call .restart) = .refused .lifecycle) ∧
    (s.host.tstate = .running → s.host.exitFlag = false →
      s.runTurn (.call .start) = .refused .lifecycle ∧
      (s.host.inited = true →
        s.runTurn (.call .stop) = .next { s with host := { s.host with
          exitFlag := true, ops := s.host.ops ++ stop } } ∧
        s.runTurn (.call .restart) = .next { s with host := { s.host with
          exitFlag := true, ops := s.host.ops ++ stop ++ start } })) ∧
    ∀ rest : List HostOp, s.host.loopFault = none → s.host.ops = .loopHead :: rest →
      (s.host.exitFlag = true → s.hostTurn = .next { s with host := { s.host with ops := rest } }) ∧
      (s.host.exitFlag = false → s.hostTurn = .next { s with host := { s.host with
        err := false
        ops := .pipeIn k 0 :: .pipeCall :: .pipeOut k 0 :: .readPosition :: .readStatus ::
          .clearErrors :: .adopt :: .notify :: .sleep :: .busyPoll :: .loopHead :: rest } })

/-- `INIT` and `GET_LAST_ERROR` (44 R230, R231, R237; 60 R304, R305). `INIT` of a Stopped transport returns
the sample rate and some `max_block_size` (91 N27: none may be assumed; log 24) when the allocator
answers, the configuration is well formed (00 R10, written out; the windows' bases: log 39) and no channel
base leaves the two channels; else the diagnostic, and the transport is not usable; either way nothing but
HOST's own variables changes, one free value aside. In Running it is refused (log 24). The last diagnostic
is returned once an `INIT` has succeeded; before, refused (92 D49). -/
def Obligations.InitReportsOutcome : Prop :=
  ∀ (s : State) (alloc : AllocOutcome) (i o : Nat),
    let c := s.cfg
    let lo := c.blockBus.toNat
    let outside (a n : Nat) : Prop := ∀ x, lo ≤ x → x < lo + c.blockLen → ¬(a ≤ x ∧ x < a + n)
    let good := 1 ≤ c.blockSize ∧ lo % 32 = 0 ∧ lo + c.blockLen ≤ 2 ^ 32 ∧
      outside c.pcmFifoBus.toNat 4 ∧ outside c.gpioBus.toNat c.winGpio ∧
      outside c.pcmBus.toNat c.winPcm ∧ outside c.dmaBus.toNat c.winDma ∧
      0 < c.prefillWords ∧ c.prefillWords % 2 = 0 ∧ c.prefillWords ≤ c.fifoDepth ∧
      1 ≤ c.rxReqLevel ∧ c.rxReqLevel ≤ c.fifoDepth ∧
      1 ≤ c.txReqLevel ∧ c.txReqLevel ≤ c.fifoDepth ∧
      c.prefillWords < c.txReqLevel ∧ i + 2 ≤ 2 ∧ o + 2 ≤ 2
    let fails (d : Diag) : Res := .next { s with host := { s.host with
      inited := false, lastError := d, result := .error d } }
    (s.host.tstate = .stopped → s.host.ops = [] →
      (alloc = .ok → good → ∃ m : Nat, s.runTurn (.call (.init alloc i o)) = .next { s with
        host := { s.host with
          inited := true, everInited := true, result := .initOk c.sampleRate m }
        env := { s.env with draws := s.env.draws + 1 } }) ∧
      (alloc = .ok → ¬good → s.runTurn (.call (.init alloc i o)) = fails .configChannels) ∧
      (alloc = .outOfKernelMemory → s.runTurn (.call (.init alloc i o)) = fails .outOfKernelMemory) ∧
      (alloc = .cannotLock → s.runTurn (.call (.init alloc i o)) = fails .cannotLock) ∧
      (alloc = .cannotMap → s.runTurn (.call (.init alloc i o)) = fails .cannotMap)) ∧
    (s.host.tstate = .running → s.host.exitFlag = false →
      s.runTurn (.call (.init alloc i o)) = .refused .lifecycle) ∧
    ((s.host.tstate = .stopped ∧ s.host.ops = []) ∨ (s.host.tstate = .running ∧ s.host.exitFlag = false) →
      (s.host.everInited = true →
        s.runTurn (.call .getLastError) = .next { s with host := { s.host with
          result := .diag s.host.lastError } }) ∧
      (s.host.everInited = false →
        s.runTurn (.call .getLastError) = .refused .lifecycle))

/-- The codec's clock (44 R233, R234, 70 R342): gone from START's step 1 until the codec answers step 2, which
starts it, or, failing, ends START in Stopped with the diagnostic; a codec that is not up drives none;
and no step but that answer brings the codec up. -/
def Obligations.CodecClockOnlyAfterBringUp : Prop :=
  (∀ (s : State) (rest : List HostOp), s.host.loopFault = none →
    (s.host.ops = .codecReset :: rest → s.hostTurn = .next { s with
      host := { s.host with ops := rest }
      env := { s.env with codecUp := false, codecClk := false } }) ∧
    (s.host.ops = .codecBringUp :: rest →
      s.hostTurn = .next s ∧
      s.runTurn (.codecReady true) = .next { s with
        host := { s.host with ops := rest }
        env := { s.env with codecUp := true, codecClk := true } } ∧
      s.runTurn (.codecReady false) = .next { s with host := { s.host with
        ops := [], lastError := .codecFailed, result := .error .codecFailed } }) ∧
    ∀ on : Bool, s.runTurn (.codecClock on) = .next { s with env := { s.env with
      codecClk := on && s.env.codecUp } }) ∧
  ∀ s t : State, step s = .next t →
    (s.env.codecUp = false → t.env.codecUp = true → ∃ rest, s.host.ops = .codecBringUp :: rest) ∧
    (s.env.codecClk = false → t.env.codecClk = true →
      s.env.codecUp = true ∨ ∃ rest, s.host.ops = .codecBringUp :: rest)

/-- The pipeline's word steps (45 R280, R282): an input word converted into its staging element, an output
slot set to the conversion of its staging element, no other byte of memory changed; on the live pair (20
R75) the first is marked `race`, the second refused. The callback (44 R250, 45 R281) leaves its words in
`stage_out` and touches nothing else but `exit_requested`. -/
def Obligations.PipelineMovesOneWord : Prop :=
  ∀ (s : State) (k : Fin 2) (p ch : Nat) (rest : List HostOp), s.cfg.wf = true →
    Memory.wf s.mem = true → p < s.cfg.blockSizeA → ch < 2 →
    (∃ st : Stage,
      s.hostOpStep (.pipeIn k (p * 2 + ch)) rest = .next { s with host := { s.host with
        stageIn := st
        race := s.host.race || decide (s.liveBuf = some k)
        ops := .pipeIn k (p * 2 + ch + 1) :: rest } } ∧
      st = s.host.stageIn.set ch p (i2f (Memory.readWord s.mem (slotAddr (s.cfg.inBase k.val) p ch)))) ∧
    (s.liveBuf = some k →
      s.hostOpStep (.pipeOut k (p * 2 + ch)) rest = .refused .liveHalfWrite) ∧
    (s.liveBuf ≠ some k → ∃ (m : List Host.Cell) (free : Word),
      s.hostOpStep (.pipeOut k (p * 2 + ch)) rest = .next { s with
        mem := m
        host := { s.host with ops := .pipeOut k (p * 2 + ch + 1) :: rest }
        env := { s.env with draws := s.env.draws + 1 } } ∧
      Memory.readWord m (slotAddr (s.cfg.outBase k.val) p ch) =
        f2i s.cfg.f2iRound free (s.host.stageOut.get ch p) ∧
      ∀ b, b < slotAddr (s.cfg.outBase k.val) p ch ∨ slotAddr (s.cfg.outBase k.val) p ch + 4 ≤ b →
        Memory.readByte m b = Memory.readByte s.mem b) ∧
    (∀ (o0 o1 : List Word) (e : Bool), s.host.ops = .pipeCall :: rest →
      ∃ (st : Stage) (n : Nat),
        s.runTurn (.callback o0 o1 e) = .next { s with
          host := { s.host with
            stageOut := st, exitRequested := s.host.exitRequested || e, ops := rest }
          env := { s.env with draws := n } } ∧
        st.ch0.length = s.cfg.blockSizeA ∧ st.ch1.length = s.cfg.blockSizeA ∧
        (p < o0.length → st.get 0 p = o0.getD p 0#32) ∧ (p < o1.length → st.get 1 p = o1.getD p 0#32))

/-! ### The whole machine -/

/-- When what an agent meets decodes to an instruction, the step at that state is `exec` of it, at that
state with the schedule's entry taken: for a transaction and a converter operation of HOST, for the
descriptor in memory at `CONBLK_AD` when the engine loads (whether from descriptor slots only is a
parameter, log 11), and for the loaded one, whose kind its `TI` shows (log 12), on its beats (40 R120, 42
R160, R163; the schedule is the model's own, log 3). -/
def Obligations.StepRunsDecodedInstruction : Prop :=
  ∀ (s : State) (r : List Turn) (i : Instr),
    let t : State := { s with env := { s.env with sched := r } }
    let a := s.dma.conblkAd.toNat
    (∀ w, s.env.sched = .reg w :: r → decode s.cfg (.reg w) = .ok i → step s = exec i t) ∧
    (∀ sel w0 w1 w2 w3, s.env.sched = .cvt sel w0 w1 w2 w3 :: r →
      decode s.cfg (.cvt sel w0 w1 w2 w3) = .ok i → step s = exec i t) ∧
    (s.env.sched = .dma :: r → s.dma.active = true → s.dmaFault = none →
      (s.dma.phase = .needLoad → s.dma.conblkAd ≠ 0#32 → a % 32 = 0 → s.cfg.inBlock a 32 = true →
        (s.cfg.descSlotsOnly = true → ∃ j < s.cfg.nDesc, a = s.cfg.descAddr j) →
        decode s.cfg (.desc
          { ti := Memory.readWord s.mem a
            src := Memory.readWord s.mem (a + 4)
            dst := Memory.readWord s.mem (a + 8)
            len := Memory.readWord s.mem (a + 12)
            stride := Memory.readWord s.mem (a + 16)
            next := Memory.readWord s.mem (a + 20)
            rsv0 := Memory.readWord s.mem (a + 24)
            rsv1 := Memory.readWord s.mem (a + 28) }) = .ok i → step s = exec i t) ∧
      (s.dma.phase = .loaded ∨ s.dma.phase = .latched →
        let d : Desc :=
          { ti := s.dma.ti, src := s.dma.sourceAd, dst := s.dma.destAd, len := s.dma.txfrLen
            stride := s.dma.stride, next := s.dma.nextconbk, rsv0 := 0#32, rsv1 := 0#32 }
        (d.ti &&& 0x001F0FF3#32 = 0x00030400#32 → step s = exec (.xferRx d) t) ∧
        (d.ti &&& 0x001F0FF3#32 = 0x00020040#32 → step s = exec (.xferTx d) t)))

/-- What reset leaves, in the values the spec gives: the channel is not running, the transport is
Stopped, the exit flags are false, no dropout is counted (70 R330, 10 R34), the error flags are 0 (10
R21). -/
def Obligations.ResetLeavesTransportStopped : Prop :=
  State.reset.dma.active = false ∧ State.reset.host.tstate = .stopped ∧
  State.reset.host.exitFlag = false ∧ State.reset.host.exitRequested = false ∧
  State.reset.host.dropouts = 0 ∧ State.reset.pcm.txErr = false ∧ State.reset.pcm.rxErr = false

/-- The state after reset meets both invariants. This rests on values the model names where 10 R34 leaves
them unspecified: the registers' (log 6) and memory's (log 5). -/
def Obligations.ResetMeetsInvariants : Prop :=
  State.reset.inv = true ∧ State.reset.engineInv = true

/-- Every step keeps the machine's invariant: memory in canonical form and inside the block, no queue
above its capacity, reserved and self-clearing bits never stored, 24-bit channels only, the error bits
that stay 0, no clock from a codec that is not up, no usable transport without an `INIT` (10 R15 to R30, 60
R307, R316, 70 R342, 44 R231). -/
def Obligations.StepKeepsInvariant : Prop :=
  ∀ s t : State, s.inv = true → step s = .next t → t.inv = true

/-- Every step keeps the engine's invariant: in phases Loaded and Latched the working registers hold an
admitted descriptor (42 R163, R168), and `CS.INT` stays 0 (60 R309, 10 R15). -/
def Obligations.StepKeepsEngineInvariant : Prop :=
  ∀ s t : State, s.engineInv = true → step s = .next t → t.engineInv = true

/-- A recorded fault is never cleared by any step (00 R8, 60 R307, 42 R169), and no step changes the
configuration (00 R4). -/
def Obligations.FaultsAreNeverCleared : Prop :=
  ∀ s t : State, step s = .next t →
    t.cfg = s.cfg ∧ (s.dmaFault ≠ none → t.dmaFault = s.dmaFault) ∧
    (s.host.loopFault ≠ none → t.host.loopFault = s.host.loopFault)

end
end

