-- ==== Sys2Proof/Laws/Memory.lean ====
section
/-! SUPPORT. The laws of memory: a read after a write, the frame of a write, and that every write keeps
the canonical form. -/

namespace Sys2Proof.Machine.Memory

theorem readByte_nil (a : Nat) : readByte [] a = unlistedByte := rfl

theorem readByte_cons (k : Nat) (v : Byte) (r : List Host.Cell) (a : Nat) :
    readByte ((k, v) :: r) a = if k = a then v else readByte r a := rfl

theorem wfFrom_cons (lo a : Nat) (v : Byte) (r : List Host.Cell) :
    wfFrom lo ((a, v) :: r) = true ↔ lo ≤ a ∧ v ≠ unlistedByte ∧ wfFrom (a + 1) r = true := by
  simp [wfFrom, and_assoc]

theorem wfFrom_mono {lo lo' : Nat} (h : lo' ≤ lo) :
    ∀ {m : List Host.Cell}, wfFrom lo m = true → wfFrom lo' m = true
  | [], _ => rfl
  | (a, v) :: r, hm => by
    rw [wfFrom_cons] at hm ⊢
    exact ⟨h.trans hm.1, hm.2⟩

/-- Below the lower bound of a canonical memory nothing is listed. -/
theorem readByte_of_lt : ∀ {m : List Host.Cell} {lo a : Nat}, wfFrom lo m = true → a < lo →
    readByte m a = unlistedByte
  | [], _, _, _, _ => rfl
  | (k, v) :: r, lo, a, hm, h => by
    rw [wfFrom_cons] at hm
    rw [readByte_cons, if_neg (by omega)]
    exact readByte_of_lt hm.2.2 (by omega)

/-- A write leaves every other byte alone. -/
theorem readByte_writeByte_of_ne : ∀ (m : List Host.Cell) {a b : Nat} (v : Byte), a ≠ b →
    readByte (writeByte m a v) b = readByte m b
  | [], a, b, v, h => by
    unfold writeByte
    split <;> simp [readByte, h]
  | (k, w) :: r, a, b, v, h => by
    unfold writeByte
    split_ifs with h1 h2 h3 h4
    · rfl
    · simp [readByte, h]
    · subst h3; simp [readByte, h]
    · subst h3; simp [readByte, h]
    · simp [readByte, readByte_writeByte_of_ne r v h]

/-- The byte written is the byte read, in a canonical memory. -/
theorem readByte_writeByte_self : ∀ {m : List Host.Cell} {lo : Nat} (a : Nat) (v : Byte),
    wfFrom lo m = true → readByte (writeByte m a v) a = v
  | [], _, a, v, _ => by
    unfold writeByte
    split_ifs with h <;> simp [readByte, h]
  | (k, w) :: r, lo, a, v, hm => by
    rw [wfFrom_cons] at hm
    unfold writeByte
    split_ifs with h1 h2 h3 h4
    · rw [readByte_cons, if_neg (by omega), h2]
      exact readByte_of_lt hm.2.2 (by omega)
    · simp [readByte]
    · subst h3; rw [h4]; exact readByte_of_lt hm.2.2 (by omega)
    · simp [readByte]
    · rw [readByte_cons, if_neg (by omega)]
      exact readByte_writeByte_self a v hm.2.2

/-- A write keeps the canonical form. -/
theorem writeByte_wfFrom : ∀ {m : List Host.Cell} {lo a : Nat} (v : Byte), wfFrom lo m = true →
    lo ≤ a → wfFrom lo (writeByte m a v) = true
  | [], lo, a, v, _, h => by
    unfold writeByte
    split_ifs with hv
    · rfl
    · exact (wfFrom_cons ..).2 ⟨h, hv, rfl⟩
  | (k, w) :: r, lo, a, v, hm, h => by
    have hc := (wfFrom_cons ..).1 hm
    unfold writeByte
    split_ifs with h1 h2 h3 h4
    · exact hm
    · exact (wfFrom_cons ..).2 ⟨h, h2, (wfFrom_cons ..).2 ⟨h1, hc.2⟩⟩
    · exact wfFrom_mono (by omega) hc.2.2
    · exact (wfFrom_cons ..).2 ⟨h, h4, h3 ▸ hc.2.2⟩
    · exact (wfFrom_cons ..).2 ⟨hc.1, hc.2.1, writeByte_wfFrom v hc.2.2 (by omega)⟩

theorem writeByte_wf {m : List Host.Cell} (a : Nat) (v : Byte) (h : wf m = true) :
    wf (writeByte m a v) = true := writeByte_wfFrom v h (Nat.zero_le a)

/-- A word write keeps the canonical form. -/
theorem writeWord_wf {m : List Host.Cell} (a : Nat) (v : Word) (h : wf m = true) :
    wf (writeWord m a v) = true :=
  writeByte_wf _ _ (writeByte_wf _ _ (writeByte_wf _ _ (writeByte_wf _ _ h)))

/-- A word write leaves every byte outside its four alone. -/
theorem readByte_writeWord_of_outside (m : List Host.Cell) {a b : Nat} (v : Word)
    (h : b < a ∨ a + 4 ≤ b) : readByte (writeWord m a v) b = readByte m b := by
  unfold writeWord
  rw [readByte_writeByte_of_ne _ _ (by omega), readByte_writeByte_of_ne _ _ (by omega),
    readByte_writeByte_of_ne _ _ (by omega), readByte_writeByte_of_ne _ _ (by omega)]

/-- A word put together from its own bytes (20 R72). -/
theorem wordOfBytes_wordByte (v : Word) :
    wordOfBytes (wordByte v 0) (wordByte v 1) (wordByte v 2) (wordByte v 3) = v := by
  apply BitVec.eq_of_getLsbD_eq
  intro i hi
  have e : ∀ k, (v.extractLsb' 24 8 ++ v.extractLsb' 16 8 ++ v.extractLsb' 8 8 ++
      v.extractLsb' 0 8 : BitVec (8 + 8 + 8 + 8)).getLsbD k =
      if k < 8 then v.getLsbD k else if k < 16 then v.getLsbD k else if k < 24 then v.getLsbD k
      else decide (k < 32) && v.getLsbD k := by
    intro k
    simp only [BitVec.getLsbD_append, BitVec.getLsbD_extractLsb']
    split_ifs <;> first | omega | skip
    · simp [*]
    · simp [show k - 8 < 8 by omega, show 8 + (k - 8) = k by omega]
    · simp [show k - 8 - 8 < 8 by omega, show 16 + (k - 8 - 8) = k by omega]
    · rw [show 24 + (k - 8 - 8 - 8) = k by omega]
      congr 1
      exact decide_eq_decide.2 (by omega)
  refine (e i).trans ?_
  simp [hi]

/-- The word written is the word read, in a canonical memory (20 R66, R67). -/
theorem readWord_writeWord_self {m : List Host.Cell} (a : Nat) (v : Word) (h : wf m = true) :
    readWord (writeWord m a v) a = v := by
  have h0 := writeByte_wf a (wordByte v 0) h
  have h1 := writeByte_wf (a + 1) (wordByte v 1) h0
  have h2 := writeByte_wf (a + 2) (wordByte v 2) h1
  have e3 : readByte (writeWord m a v) (a + 3) = wordByte v 3 := readByte_writeByte_self _ _ h2
  have e2 : readByte (writeWord m a v) (a + 2) = wordByte v 2 := by
    unfold writeWord
    rw [readByte_writeByte_of_ne _ _ (by omega)]
    exact readByte_writeByte_self _ _ h1
  have e1 : readByte (writeWord m a v) (a + 1) = wordByte v 1 := by
    unfold writeWord
    rw [readByte_writeByte_of_ne _ _ (by omega), readByte_writeByte_of_ne _ _ (by omega)]
    exact readByte_writeByte_self _ _ h0
  have e0 : readByte (writeWord m a v) a = wordByte v 0 := by
    unfold writeWord
    rw [readByte_writeByte_of_ne _ _ (by omega), readByte_writeByte_of_ne _ _ (by omega),
      readByte_writeByte_of_ne _ _ (by omega)]
    exact readByte_writeByte_self _ _ h
  unfold readWord
  rw [e0, e1, e2, e3, wordOfBytes_wordByte]

/-- A word write leaves every word that does not overlap it alone. -/
theorem readWord_writeWord_of_disjoint (m : List Host.Cell) {a b : Nat} (v : Word)
    (h : b + 4 ≤ a ∨ a + 4 ≤ b) : readWord (writeWord m a v) b = readWord m b := by
  unfold readWord
  rw [readByte_writeWord_of_outside _ _ (by omega), readByte_writeWord_of_outside _ _ (by omega),
    readByte_writeWord_of_outside _ _ (by omega), readByte_writeWord_of_outside _ _ (by omega)]

end Sys2Proof.Machine.Memory
end

