-- ==== Sys2Proof/Laws/PerInstr.lean ====
section
/-! SUPPORT. Decoding undoes encoding, one lemma per instruction: no bit of a well-formed instruction's
encoding is dropped. -/

namespace Sys2Proof.Laws

theorem regFields_regPack (t : RegTuple) : regFields (regPack t) = t := by
  rcases t with ⟨a, b, c, d⟩
  have e : ∀ k, (a ++ b ++ c ++ d : BitVec (2 + 2 + 13 + 32)).getLsbD k =
      if k < 32 then d.getLsbD k else if k < 45 then c.getLsbD (k - 32)
      else if k < 47 then b.getLsbD (k - 45) else a.getLsbD (k - 47) := by
    intro k
    simp only [BitVec.getLsbD_append]
    split_ifs <;> first | rfl | omega
  have h1 : (a ++ b ++ c ++ d : BitVec (2 + 2 + 13 + 32)).extractLsb' 47 2 = a := by
    apply BitVec.eq_of_getLsbD_eq; intro i hi
    rw [BitVec.getLsbD_extractLsb', e, if_neg (by omega), if_neg (by omega), if_neg (by omega)]
    simp [hi]
  have h2 : (a ++ b ++ c ++ d : BitVec (2 + 2 + 13 + 32)).extractLsb' 45 2 = b := by
    apply BitVec.eq_of_getLsbD_eq; intro i hi
    rw [BitVec.getLsbD_extractLsb', e, if_neg (by omega), if_neg (by omega), if_pos (by omega)]
    simp [hi]
  have h3 : (a ++ b ++ c ++ d : BitVec (2 + 2 + 13 + 32)).extractLsb' 32 13 = c := by
    apply BitVec.eq_of_getLsbD_eq; intro i hi
    rw [BitVec.getLsbD_extractLsb', e, if_neg (by omega), if_pos (by omega)]
    simp [hi]
  have h4 : (a ++ b ++ c ++ d : BitVec (2 + 2 + 13 + 32)).extractLsb' 0 32 = d := by
    apply BitVec.eq_of_getLsbD_eq; intro i hi
    rw [BitVec.getLsbD_extractLsb', e, if_pos (by omega)]
    simp [hi]
  rw [RegTuple.mk.injEq]
  exact ⟨h1, h2, h3, h4⟩

/-- Decoding of a packed tuple looks at the tuple's own fields. -/
theorem decodeReg_regPack (c : Cfg) (win kind : BitVec 2) (off : BitVec 13) (v : Word) :
    decodeReg c (regPack ⟨win, kind, off, v⟩) =
      if win = 3#2 then .error .windowIllegal
      else if kind = 3#2 ∨ (kind = 2#2 ∧ win ≠ 0#2) then .error .kindIllegal
      else if off.extractLsb' 0 2 ≠ 0#2 then .error .misaligned
      else if c.winSize win ≤ off.toNat then .error .outOfWindow
      else if win = 0#2 then decodeGpio kind off v
      else if win = 1#2 then decodePcm kind off v
      else decodeDma kind off v := by
  unfold decodeReg
  rw [regFields_regPack]

theorem windowsHold_iff (c : Cfg) :
    c.windowsHold = true ↔ 0xA0 ≤ c.winGpio ∧ 0x20 ≤ c.winPcm ∧ 0x1000 ≤ c.winDma := by
  simp [Cfg.windowsHold, and_assoc]

/-- A PCM tuple of a listed offset decodes by the PCM table. -/
theorem decode_pcmTuple {c : Cfg} (h : c.windowsHold = true) (kind : BitVec 2) (o : BitVec 13) (v : Word)
    (hk : kind = 0#2 ∨ kind = 1#2) (ha : o.extractLsb' 0 2 = 0#2) (ho : o.toNat < 0x20) :
    decode c (.reg (regPack (pcmTuple kind o v))) = decodePcm kind o v := by
  have hw := (windowsHold_iff c).1 h
  refine (decodeReg_regPack c 1#2 kind o v).trans ?_
  rw [if_neg (by decide), if_neg (by rcases hk with rfl | rfl <;> decide), if_neg (by simpa using ha),
    if_neg (by simp [Cfg.winSize]; omega), if_neg (by decide), if_pos rfl]

/-- A GPIO tuple of a listed offset decodes by the GPIO table. -/
theorem decode_gpioTuple {c : Cfg} (h : c.windowsHold = true) (kind : BitVec 2) (o : BitVec 13) (v : Word)
    (hk : kind ≠ 3#2) (ha : o.extractLsb' 0 2 = 0#2) (ho : o.toNat < 0xA0) :
    decode c (.reg (regPack (gpioTuple kind o v))) = decodeGpio kind o v := by
  have hw := (windowsHold_iff c).1 h
  refine (decodeReg_regPack c 0#2 kind o v).trans ?_
  rw [if_neg (by decide), if_neg (by simpa using hk), if_neg (by simpa using ha),
    if_neg (by simp [Cfg.winSize]; omega), if_pos rfl]

/-- The low byte of a DMA offset is the register. -/
theorem dmaOff_low (ch : BitVec 4) (o : BitVec 8) :
    (0#1 ++ ch ++ o : BitVec 13).extractLsb' 0 8 = o := by
  apply BitVec.eq_of_getLsbD_eq; intro i hi
  rw [BitVec.getLsbD_extractLsb']
  exact (congrArg (decide (i < 8) && ·) (BitVec.getLsbD_append (x := 0#1 ++ ch) (y := o) (i := 0 + i))).trans
    (by simp [hi])

theorem dmaOff_chan (ch : BitVec 4) (o : BitVec 8) :
    (0#1 ++ ch ++ o : BitVec 13).extractLsb' 8 4 = ch := by
  apply BitVec.eq_of_getLsbD_eq; intro i hi
  rw [BitVec.getLsbD_extractLsb']
  refine (congrArg (decide (i < 4) && ·) (BitVec.getLsbD_append (x := 0#1 ++ ch) (y := o) (i := 8 + i))).trans ?_
  rw [if_neg (by omega), show 8 + i - 8 = i by omega]
  refine (congrArg (decide (i < 4) && ·) (BitVec.getLsbD_append (x := 0#1) (y := ch) (i := i))).trans ?_
  simp [hi]

theorem dmaOff_align (ch : BitVec 4) (o : BitVec 8) :
    (0#1 ++ ch ++ o : BitVec 13).extractLsb' 0 2 = o.extractLsb' 0 2 := by
  apply BitVec.eq_of_getLsbD_eq; intro i hi
  rw [BitVec.getLsbD_extractLsb', BitVec.getLsbD_extractLsb']
  refine (congrArg (decide (i < 2) && ·) (BitVec.getLsbD_append (x := 0#1 ++ ch) (y := o) (i := 0 + i))).trans ?_
  simp [show i < 8 by omega]

theorem dmaOff_top (ch : BitVec 4) (o : BitVec 8) :
    (0#1 ++ ch ++ o : BitVec 13).getLsbD 12 = false := by
  refine (BitVec.getLsbD_append (x := 0#1 ++ ch) (y := o) (i := 12)).trans ?_
  exact (BitVec.getLsbD_append (x := 0#1) (y := ch) (i := 4)).trans (by simp)

theorem dmaOff_lt (ch : BitVec 4) (o : BitVec 8) :
    (0#1 ++ ch ++ o : BitVec 13).toNat < 0x1000 := by
  have h := dmaOff_top ch o
  have := (0#1 ++ ch ++ o : BitVec 13).isLt
  rw [BitVec.getLsbD, Nat.testBit_eq_decide_div_mod_eq] at h
  simp at h
  omega

/-- A DMA tuple decodes by its register, the channel given back. -/
theorem decode_dmaTuple {c : Cfg} (h : c.windowsHold = true) (ch : BitVec 4) (kind : BitVec 2) (o : BitVec 8)
    (v : Word) (hk : kind = 0#2 ∨ kind = 1#2) (ha : o.extractLsb' 0 2 = 0#2) :
    decode c (.reg (regPack (dmaTuple ch kind o v))) = decodeDma kind (0#1 ++ ch ++ o) v := by
  have hw := (windowsHold_iff c).1 h
  have hl := dmaOff_lt ch o
  refine (decodeReg_regPack c 2#2 kind (0#1 ++ ch ++ o) v).trans ?_
  rw [if_neg (by decide), if_neg (by rcases hk with rfl | rfl <;> decide),
    if_neg (by rw [dmaOff_align]; simpa using ha),
    if_neg (by simp only [Cfg.winSize]; rw [if_neg (by decide), if_neg (by decide)]; omega),
    if_neg (by decide), if_neg (by decide)]

/-- The kind of a decoded DMA register does not look at the channel. -/
theorem decodeDma_off (kind : BitVec 2) (ch : BitVec 4) (o : BitVec 8) (v : Word) :
    decodeDma kind (0#1 ++ ch ++ o) v =
      match kind.toNat, o.toNat with
      | 0, 0x00 => .ok (.dmaRdcs ch)
      | 1, 0x00 => .ok (decodeDmaCs ch v)
      | 0, 0x04 => .ok (.dmaRdpos ch)
      | 1, 0x04 => .ok (.dmaSetcb ch v)
      | 0, 0x08 => .ok (.dmaRdti ch)
      | 0, 0x0C => .ok (.dmaRdsrc ch)
      | 0, 0x10 => .ok (.dmaRddst ch)
      | 0, 0x14 => .ok (.dmaRdlen ch)
      | 0, 0x18 => .ok (.dmaRdstride ch)
      | 0, 0x1C => .ok (.dmaRdnext ch)
      | 0, 0x20 => .ok (.dmaRddbg ch)
      | 1, 0x20 => .ok (.dmaClrdbg ch v)
      | _, _ => .error .unlisted := by
  unfold decodeDma
  rw [dmaOff_top, dmaOff_chan, dmaOff_low]
  rfl

/-- The data of a `GPIO.SETFN` tuple gives its field and code back (30 R99). -/
theorem decodeSetfn_pack : ∀ (field : Fin 10) (f : BitVec 3) (reg : Fin 6),
    decodeSetfn reg (BitVec.ofNat 24 0 ++ BitVec.ofNat 4 field.val ++ 0#1 ++ f) =
      .ok (.gpioSetfn reg field f) := by
  decide

namespace EncodingRoundTrip

/-- In every configuration whose windows hold the listed registers, the decoder gives a well-formed
instruction back from its encoding. -/
def Statement (i : Instr) : Prop :=
  ∀ c : Cfg, c.windowsHold = true → WellFormed c i = true → decode c (encode i) = .ok i

theorem xferRx (d : Desc) : Statement (.xferRx d) := fun c _ hf => by
  simp only [WellFormed] at hf
  simp [decode, encode, decodeDesc, hf]

theorem xferTx (d : Desc) : Statement (.xferTx d) := fun c _ hf => by
  simp only [WellFormed, Bool.and_eq_true, Bool.not_eq_true'] at hf
  simp [decode, encode, decodeDesc, hf]

theorem xferOther (d : Desc) : Statement (.xferOther d) := fun c _ hf => by
  simp only [WellFormed, Bool.and_eq_true, Bool.not_eq_true'] at hf
  simp [decode, encode, decodeDesc, hf]

theorem dmaRdcs (ch : BitVec 4) : Statement (.dmaRdcs ch) := fun c h _ =>
  (decode_dmaTuple h ch 0#2 0x00#8 0#32 (.inl rfl) (by decide)).trans
    (decodeDma_off 0#2 ch 0x00#8 0#32)

theorem dmaReset (ch : BitVec 4) (v : Word) : Statement (.dmaReset ch v) := fun c h hf =>
  (decode_dmaTuple h ch 1#2 0x00#8 v (.inr rfl) (by decide)).trans
    ((decodeDma_off 1#2 ch 0x00#8 v).trans (by simp_all [WellFormed, decodeDmaCs]))

theorem dmaAbort (ch : BitVec 4) (v : Word) : Statement (.dmaAbort ch v) := fun c h hf =>
  (decode_dmaTuple h ch 1#2 0x00#8 v (.inr rfl) (by decide)).trans
    ((decodeDma_off 1#2 ch 0x00#8 v).trans (by simp_all [WellFormed, decodeDmaCs]))

theorem dmaGo (ch : BitVec 4) (v : Word) : Statement (.dmaGo ch v) := fun c h hf =>
  (decode_dmaTuple h ch 1#2 0x00#8 v (.inr rfl) (by decide)).trans
    ((decodeDma_off 1#2 ch 0x00#8 v).trans (by simp_all [WellFormed, decodeDmaCs]))

theorem dmaPause (ch : BitVec 4) (v : Word) : Statement (.dmaPause ch v) := fun c h hf =>
  (decode_dmaTuple h ch 1#2 0x00#8 v (.inr rfl) (by decide)).trans
    ((decodeDma_off 1#2 ch 0x00#8 v).trans (by simp_all [WellFormed, decodeDmaCs]))

theorem dmaRdpos (ch : BitVec 4) : Statement (.dmaRdpos ch) := fun c h _ =>
  (decode_dmaTuple h ch 0#2 0x04#8 0#32 (.inl rfl) (by decide)).trans
    (decodeDma_off 0#2 ch 0x04#8 0#32)

theorem dmaSetcb (ch : BitVec 4) (v : Word) : Statement (.dmaSetcb ch v) := fun c h _ =>
  (decode_dmaTuple h ch 1#2 0x04#8 v (.inr rfl) (by decide)).trans
    (decodeDma_off 1#2 ch 0x04#8 v)

theorem dmaRdti (ch : BitVec 4) : Statement (.dmaRdti ch) := fun c h _ =>
  (decode_dmaTuple h ch 0#2 0x08#8 0#32 (.inl rfl) (by decide)).trans
    (decodeDma_off 0#2 ch 0x08#8 0#32)

theorem dmaRdsrc (ch : BitVec 4) : Statement (.dmaRdsrc ch) := fun c h _ =>
  (decode_dmaTuple h ch 0#2 0x0C#8 0#32 (.inl rfl) (by decide)).trans
    (decodeDma_off 0#2 ch 0x0C#8 0#32)

theorem dmaRddst (ch : BitVec 4) : Statement (.dmaRddst ch) := fun c h _ =>
  (decode_dmaTuple h ch 0#2 0x10#8 0#32 (.inl rfl) (by decide)).trans
    (decodeDma_off 0#2 ch 0x10#8 0#32)

theorem dmaRdlen (ch : BitVec 4) : Statement (.dmaRdlen ch) := fun c h _ =>
  (decode_dmaTuple h ch 0#2 0x14#8 0#32 (.inl rfl) (by decide)).trans
    (decodeDma_off 0#2 ch 0x14#8 0#32)

theorem dmaRdstride (ch : BitVec 4) : Statement (.dmaRdstride ch) := fun c h _ =>
  (decode_dmaTuple h ch 0#2 0x18#8 0#32 (.inl rfl) (by decide)).trans
    (decodeDma_off 0#2 ch 0x18#8 0#32)

theorem dmaRdnext (ch : BitVec 4) : Statement (.dmaRdnext ch) := fun c h _ =>
  (decode_dmaTuple h ch 0#2 0x1C#8 0#32 (.inl rfl) (by decide)).trans
    (decodeDma_off 0#2 ch 0x1C#8 0#32)

theorem dmaRddbg (ch : BitVec 4) : Statement (.dmaRddbg ch) := fun c h _ =>
  (decode_dmaTuple h ch 0#2 0x20#8 0#32 (.inl rfl) (by decide)).trans
    (decodeDma_off 0#2 ch 0x20#8 0#32)

theorem dmaClrdbg (ch : BitVec 4) (v : Word) : Statement (.dmaClrdbg ch v) := fun c h _ =>
  (decode_dmaTuple h ch 1#2 0x20#8 v (.inr rfl) (by decide)).trans
    (decodeDma_off 1#2 ch 0x20#8 v)

theorem pcmRdcs : Statement (.pcmRdcs) := fun c h _ =>
  decode_pcmTuple h 0#2 0x00#13 0#32 (.inl rfl) (by decide) (by decide)

theorem pcmWrcs (v : Word) : Statement (.pcmWrcs v) := fun c h _ =>
  decode_pcmTuple h 1#2 0x00#13 v (.inr rfl) (by decide) (by decide)

theorem pcmRdfifo : Statement (.pcmRdfifo) := fun c h _ =>
  decode_pcmTuple h 0#2 0x04#13 0#32 (.inl rfl) (by decide) (by decide)

theorem pcmWrfifo (v : Word) : Statement (.pcmWrfifo v) := fun c h _ =>
  decode_pcmTuple h 1#2 0x04#13 v (.inr rfl) (by decide) (by decide)

theorem pcmRdmode : Statement (.pcmRdmode) := fun c h _ =>
  decode_pcmTuple h 0#2 0x08#13 0#32 (.inl rfl) (by decide) (by decide)

theorem pcmWrmode (v : Word) : Statement (.pcmWrmode v) := fun c h _ =>
  decode_pcmTuple h 1#2 0x08#13 v (.inr rfl) (by decide) (by decide)

theorem pcmRdrxc : Statement (.pcmRdrxc) := fun c h _ =>
  decode_pcmTuple h 0#2 0x0C#13 0#32 (.inl rfl) (by decide) (by decide)

theorem pcmWrrxc (v : Word) : Statement (.pcmWrrxc v) := fun c h _ =>
  decode_pcmTuple h 1#2 0x0C#13 v (.inr rfl) (by decide) (by decide)

theorem pcmRdtxc : Statement (.pcmRdtxc) := fun c h _ =>
  decode_pcmTuple h 0#2 0x10#13 0#32 (.inl rfl) (by decide) (by decide)

theorem pcmWrtxc (v : Word) : Statement (.pcmWrtxc v) := fun c h _ =>
  decode_pcmTuple h 1#2 0x10#13 v (.inr rfl) (by decide) (by decide)

theorem pcmRddreq : Statement (.pcmRddreq) := fun c h _ =>
  decode_pcmTuple h 0#2 0x14#13 0#32 (.inl rfl) (by decide) (by decide)

theorem pcmWrdreq (v : Word) : Statement (.pcmWrdreq v) := fun c h _ =>
  decode_pcmTuple h 1#2 0x14#13 v (.inr rfl) (by decide) (by decide)

theorem pcmRdinten : Statement (.pcmRdinten) := fun c h _ =>
  decode_pcmTuple h 0#2 0x18#13 0#32 (.inl rfl) (by decide) (by decide)

theorem pcmWrinten (v : Word) : Statement (.pcmWrinten v) := fun c h _ =>
  decode_pcmTuple h 1#2 0x18#13 v (.inr rfl) (by decide) (by decide)

theorem pcmRdintstc : Statement (.pcmRdintstc) := fun c h _ =>
  decode_pcmTuple h 0#2 0x1C#13 0#32 (.inl rfl) (by decide) (by decide)

theorem pcmWrintstc (v : Word) : Statement (.pcmWrintstc v) := fun c h _ =>
  decode_pcmTuple h 1#2 0x1C#13 v (.inr rfl) (by decide) (by decide)

theorem gpioSetfn (reg : Fin 6) (field : Fin 10) (f : BitVec 3) : Statement (.gpioSetfn reg field f) := fun c h _ =>
  (decode_gpioTuple h 2#2 (BitVec.ofNat 13 (4 * reg.val)) _ (by decide)
    (by fin_cases reg <;> decide) (by fin_cases reg <;> decide)).trans
    ((by fin_cases reg <;> rfl : _ = decodeSetfn reg _).trans (decodeSetfn_pack field f reg))

theorem gpioSet (bank : Fin 2) (v : Word) : Statement (.gpioSet bank v) := fun c h _ =>
  (decode_gpioTuple h 1#2 (BitVec.ofNat 13 (0x1C + 4 * bank.val)) v (by decide)
    (by fin_cases bank <;> decide) (by fin_cases bank <;> decide)).trans (by fin_cases bank <;> rfl)

theorem gpioClr (bank : Fin 2) (v : Word) : Statement (.gpioClr bank v) := fun c h _ =>
  (decode_gpioTuple h 1#2 (BitVec.ofNat 13 (0x28 + 4 * bank.val)) v (by decide)
    (by fin_cases bank <;> decide) (by fin_cases bank <;> decide)).trans (by fin_cases bank <;> rfl)

theorem gpioRead (bank : Fin 2) : Statement (.gpioRead bank) := fun c h _ =>
  (decode_gpioTuple h 0#2 (BitVec.ofNat 13 (0x34 + 4 * bank.val)) 0#32 (by decide)
    (by fin_cases bank <;> decide) (by fin_cases bank <;> decide)).trans (by fin_cases bank <;> rfl)

theorem gpioPudclk (bank : Fin 2) (v : Word) : Statement (.gpioPudclk bank v) := fun c h _ =>
  (decode_gpioTuple h 1#2 (BitVec.ofNat 13 (0x98 + 4 * bank.val)) v (by decide)
    (by fin_cases bank <;> decide) (by fin_cases bank <;> decide)).trans (by fin_cases bank <;> rfl)

theorem gpioPud (v : Word) : Statement (.gpioPud v) := fun c h _ =>
  decode_gpioTuple h 1#2 0x94#13 v (by decide) (by decide) (by decide)

theorem cvtI2f (w : Word) : Statement (.cvtI2f w) := fun _ _ _ => rfl

theorem cvtI2fV4 (w0 w1 w2 w3 : Word) : Statement (.cvtI2fV4 w0 w1 w2 w3) := fun _ _ _ => rfl

theorem cvtF2i (f : Word) : Statement (.cvtF2i f) := fun _ _ _ => rfl

theorem cvtF2iV4 (f0 f1 f2 f3 : Word) : Statement (.cvtF2iV4 f0 f1 f2 f3) := fun _ _ _ => rfl

end EncodingRoundTrip

end Sys2Proof.Laws
end

