-- ==== Sys2Proof/Laws/State.lean ====
section
/-! SUPPORT. What each update of the state does to each field, one lemma a field, so that no later proof
unfolds a record update. -/

namespace Sys2Proof.Machine

/-! ### withDma -/

@[simp] theorem State.withDma_cfg (s : State) (x : DmaState) :
    (s.withDma x).cfg = s.cfg := rfl
@[simp] theorem State.withDma_dma (s : State) (x : DmaState) :
    (s.withDma x).dma = x := rfl
@[simp] theorem State.withDma_dmaFault (s : State) (x : DmaState) :
    (s.withDma x).dmaFault = s.dmaFault := rfl
@[simp] theorem State.withDma_pcm (s : State) (x : DmaState) :
    (s.withDma x).pcm = s.pcm := rfl
@[simp] theorem State.withDma_gpio (s : State) (x : DmaState) :
    (s.withDma x).gpio = s.gpio := rfl
@[simp] theorem State.withDma_mem (s : State) (x : DmaState) :
    (s.withDma x).mem = s.mem := rfl
@[simp] theorem State.withDma_host (s : State) (x : DmaState) :
    (s.withDma x).host = s.host := rfl
@[simp] theorem State.withDma_env (s : State) (x : DmaState) :
    (s.withDma x).env = s.env := rfl

/-! ### withPcm -/

@[simp] theorem State.withPcm_cfg (s : State) (x : PcmState) :
    (s.withPcm x).cfg = s.cfg := rfl
@[simp] theorem State.withPcm_dma (s : State) (x : PcmState) :
    (s.withPcm x).dma = s.dma := rfl
@[simp] theorem State.withPcm_dmaFault (s : State) (x : PcmState) :
    (s.withPcm x).dmaFault = s.dmaFault := rfl
@[simp] theorem State.withPcm_pcm (s : State) (x : PcmState) :
    (s.withPcm x).pcm = x := rfl
@[simp] theorem State.withPcm_gpio (s : State) (x : PcmState) :
    (s.withPcm x).gpio = s.gpio := rfl
@[simp] theorem State.withPcm_mem (s : State) (x : PcmState) :
    (s.withPcm x).mem = s.mem := rfl
@[simp] theorem State.withPcm_host (s : State) (x : PcmState) :
    (s.withPcm x).host = s.host := rfl
@[simp] theorem State.withPcm_env (s : State) (x : PcmState) :
    (s.withPcm x).env = s.env := rfl

/-! ### withGpio -/

@[simp] theorem State.withGpio_cfg (s : State) (x : GpioState) :
    (s.withGpio x).cfg = s.cfg := rfl
@[simp] theorem State.withGpio_dma (s : State) (x : GpioState) :
    (s.withGpio x).dma = s.dma := rfl
@[simp] theorem State.withGpio_dmaFault (s : State) (x : GpioState) :
    (s.withGpio x).dmaFault = s.dmaFault := rfl
@[simp] theorem State.withGpio_pcm (s : State) (x : GpioState) :
    (s.withGpio x).pcm = s.pcm := rfl
@[simp] theorem State.withGpio_gpio (s : State) (x : GpioState) :
    (s.withGpio x).gpio = x := rfl
@[simp] theorem State.withGpio_mem (s : State) (x : GpioState) :
    (s.withGpio x).mem = s.mem := rfl
@[simp] theorem State.withGpio_host (s : State) (x : GpioState) :
    (s.withGpio x).host = s.host := rfl
@[simp] theorem State.withGpio_env (s : State) (x : GpioState) :
    (s.withGpio x).env = s.env := rfl

/-! ### withMem -/

@[simp] theorem State.withMem_cfg (s : State) (x : List Host.Cell) :
    (s.withMem x).cfg = s.cfg := rfl
@[simp] theorem State.withMem_dma (s : State) (x : List Host.Cell) :
    (s.withMem x).dma = s.dma := rfl
@[simp] theorem State.withMem_dmaFault (s : State) (x : List Host.Cell) :
    (s.withMem x).dmaFault = s.dmaFault := rfl
@[simp] theorem State.withMem_pcm (s : State) (x : List Host.Cell) :
    (s.withMem x).pcm = s.pcm := rfl
@[simp] theorem State.withMem_gpio (s : State) (x : List Host.Cell) :
    (s.withMem x).gpio = s.gpio := rfl
@[simp] theorem State.withMem_mem (s : State) (x : List Host.Cell) :
    (s.withMem x).mem = x := rfl
@[simp] theorem State.withMem_host (s : State) (x : List Host.Cell) :
    (s.withMem x).host = s.host := rfl
@[simp] theorem State.withMem_env (s : State) (x : List Host.Cell) :
    (s.withMem x).env = s.env := rfl

/-! ### withHost -/

@[simp] theorem State.withHost_cfg (s : State) (x : HostState) :
    (s.withHost x).cfg = s.cfg := rfl
@[simp] theorem State.withHost_dma (s : State) (x : HostState) :
    (s.withHost x).dma = s.dma := rfl
@[simp] theorem State.withHost_dmaFault (s : State) (x : HostState) :
    (s.withHost x).dmaFault = s.dmaFault := rfl
@[simp] theorem State.withHost_pcm (s : State) (x : HostState) :
    (s.withHost x).pcm = s.pcm := rfl
@[simp] theorem State.withHost_gpio (s : State) (x : HostState) :
    (s.withHost x).gpio = s.gpio := rfl
@[simp] theorem State.withHost_mem (s : State) (x : HostState) :
    (s.withHost x).mem = s.mem := rfl
@[simp] theorem State.withHost_host (s : State) (x : HostState) :
    (s.withHost x).host = x := rfl
@[simp] theorem State.withHost_env (s : State) (x : HostState) :
    (s.withHost x).env = s.env := rfl

/-! ### withEnv -/

@[simp] theorem State.withEnv_cfg (s : State) (x : EnvState) :
    (s.withEnv x).cfg = s.cfg := rfl
@[simp] theorem State.withEnv_dma (s : State) (x : EnvState) :
    (s.withEnv x).dma = s.dma := rfl
@[simp] theorem State.withEnv_dmaFault (s : State) (x : EnvState) :
    (s.withEnv x).dmaFault = s.dmaFault := rfl
@[simp] theorem State.withEnv_pcm (s : State) (x : EnvState) :
    (s.withEnv x).pcm = s.pcm := rfl
@[simp] theorem State.withEnv_gpio (s : State) (x : EnvState) :
    (s.withEnv x).gpio = s.gpio := rfl
@[simp] theorem State.withEnv_mem (s : State) (x : EnvState) :
    (s.withEnv x).mem = s.mem := rfl
@[simp] theorem State.withEnv_host (s : State) (x : EnvState) :
    (s.withEnv x).host = s.host := rfl
@[simp] theorem State.withEnv_env (s : State) (x : EnvState) :
    (s.withEnv x).env = x := rfl

/-! ### returns -/

@[simp] theorem State.returns_cfg (s : State) (r : HostResult) :
    (s.returns r).cfg = s.cfg := rfl
@[simp] theorem State.returns_dma (s : State) (r : HostResult) :
    (s.returns r).dma = s.dma := rfl
@[simp] theorem State.returns_dmaFault (s : State) (r : HostResult) :
    (s.returns r).dmaFault = s.dmaFault := rfl
@[simp] theorem State.returns_pcm (s : State) (r : HostResult) :
    (s.returns r).pcm = s.pcm := rfl
@[simp] theorem State.returns_gpio (s : State) (r : HostResult) :
    (s.returns r).gpio = s.gpio := rfl
@[simp] theorem State.returns_mem (s : State) (r : HostResult) :
    (s.returns r).mem = s.mem := rfl
@[simp] theorem State.returns_host (s : State) (r : HostResult) :
    (s.returns r).host = { s.host with result := r } := rfl
@[simp] theorem State.returns_env (s : State) (r : HostResult) :
    (s.returns r).env = s.env := rfl

/-! ### withOps -/

@[simp] theorem State.withOps_cfg (s : State) (x : List HostOp) :
    (s.withOps x).cfg = s.cfg := rfl
@[simp] theorem State.withOps_dma (s : State) (x : List HostOp) :
    (s.withOps x).dma = s.dma := rfl
@[simp] theorem State.withOps_dmaFault (s : State) (x : List HostOp) :
    (s.withOps x).dmaFault = s.dmaFault := rfl
@[simp] theorem State.withOps_pcm (s : State) (x : List HostOp) :
    (s.withOps x).pcm = s.pcm := rfl
@[simp] theorem State.withOps_gpio (s : State) (x : List HostOp) :
    (s.withOps x).gpio = s.gpio := rfl
@[simp] theorem State.withOps_mem (s : State) (x : List HostOp) :
    (s.withOps x).mem = s.mem := rfl
@[simp] theorem State.withOps_host (s : State) (x : List HostOp) :
    (s.withOps x).host = { s.host with ops := x } := rfl
@[simp] theorem State.withOps_env (s : State) (x : List HostOp) :
    (s.withOps x).env = s.env := rfl

/-! ### drew -/

@[simp] theorem State.drew_cfg (s : State) (n : Nat) :
    (s.drew n).cfg = s.cfg := rfl
@[simp] theorem State.drew_dma (s : State) (n : Nat) :
    (s.drew n).dma = s.dma := rfl
@[simp] theorem State.drew_dmaFault (s : State) (n : Nat) :
    (s.drew n).dmaFault = s.dmaFault := rfl
@[simp] theorem State.drew_pcm (s : State) (n : Nat) :
    (s.drew n).pcm = s.pcm := rfl
@[simp] theorem State.drew_gpio (s : State) (n : Nat) :
    (s.drew n).gpio = s.gpio := rfl
@[simp] theorem State.drew_mem (s : State) (n : Nat) :
    (s.drew n).mem = s.mem := rfl
@[simp] theorem State.drew_host (s : State) (n : Nat) :
    (s.drew n).host = s.host := rfl
@[simp] theorem State.drew_env (s : State) (n : Nat) :
    (s.drew n).env = { s.env with draws := s.env.draws + n } := rfl

/-! ### recordDmaFault -/

@[simp] theorem State.recordDmaFault_cfg (s : State) (x : Fault) :
    (s.recordDmaFault x).cfg = s.cfg := rfl
@[simp] theorem State.recordDmaFault_dma (s : State) (x : Fault) :
    (s.recordDmaFault x).dma = { s.dma with debugErr := s.dma.debugErr ||| 4#3 } := rfl
@[simp] theorem State.recordDmaFault_dmaFault (s : State) (x : Fault) :
    (s.recordDmaFault x).dmaFault = some x := rfl
@[simp] theorem State.recordDmaFault_pcm (s : State) (x : Fault) :
    (s.recordDmaFault x).pcm = s.pcm := rfl
@[simp] theorem State.recordDmaFault_gpio (s : State) (x : Fault) :
    (s.recordDmaFault x).gpio = s.gpio := rfl
@[simp] theorem State.recordDmaFault_mem (s : State) (x : Fault) :
    (s.recordDmaFault x).mem = s.mem := rfl
@[simp] theorem State.recordDmaFault_host (s : State) (x : Fault) :
    (s.recordDmaFault x).host = s.host := rfl
@[simp] theorem State.recordDmaFault_env (s : State) (x : Fault) :
    (s.recordDmaFault x).env = s.env := rfl

/-! ### busFault -/

@[simp] theorem State.busFault_cfg (s : State) :
    s.busFault.cfg = s.cfg := rfl
@[simp] theorem State.busFault_dma (s : State) :
    s.busFault.dma = { s.dma with debugErr := s.dma.debugErr ||| 4#3 } := rfl
@[simp] theorem State.busFault_dmaFault (s : State) :
    s.busFault.dmaFault = some .dmaBusError := rfl
@[simp] theorem State.busFault_pcm (s : State) :
    s.busFault.pcm = s.pcm := rfl
@[simp] theorem State.busFault_gpio (s : State) :
    s.busFault.gpio = s.gpio := rfl
@[simp] theorem State.busFault_mem (s : State) :
    s.busFault.mem = s.mem := rfl
@[simp] theorem State.busFault_host (s : State) :
    s.busFault.host = s.host := rfl
@[simp] theorem State.busFault_env (s : State) :
    s.busFault.env = s.env := rfl

/-! ### raiseRxErr -/

@[simp] theorem State.raiseRxErr_cfg (s : State) :
    s.raiseRxErr.cfg = s.cfg := rfl
@[simp] theorem State.raiseRxErr_dma (s : State) :
    s.raiseRxErr.dma = s.dma := rfl
@[simp] theorem State.raiseRxErr_dmaFault (s : State) :
    s.raiseRxErr.dmaFault = s.dmaFault := rfl
@[simp] theorem State.raiseRxErr_pcm (s : State) :
    s.raiseRxErr.pcm = { s.pcm with rxErr := true } := rfl
@[simp] theorem State.raiseRxErr_gpio (s : State) :
    s.raiseRxErr.gpio = s.gpio := rfl
@[simp] theorem State.raiseRxErr_mem (s : State) :
    s.raiseRxErr.mem = s.mem := rfl
@[simp] theorem State.raiseRxErr_host (s : State) :
    s.raiseRxErr.host = s.host := rfl
@[simp] theorem State.raiseRxErr_env (s : State) :
    s.raiseRxErr.env = s.env := rfl

/-! ### raiseTxErr -/

@[simp] theorem State.raiseTxErr_cfg (s : State) :
    s.raiseTxErr.cfg = s.cfg := rfl
@[simp] theorem State.raiseTxErr_dma (s : State) :
    s.raiseTxErr.dma = s.dma := rfl
@[simp] theorem State.raiseTxErr_dmaFault (s : State) :
    s.raiseTxErr.dmaFault = s.dmaFault := rfl
@[simp] theorem State.raiseTxErr_pcm (s : State) :
    s.raiseTxErr.pcm = { s.pcm with txErr := true } := rfl
@[simp] theorem State.raiseTxErr_gpio (s : State) :
    s.raiseTxErr.gpio = s.gpio := rfl
@[simp] theorem State.raiseTxErr_mem (s : State) :
    s.raiseTxErr.mem = s.mem := rfl
@[simp] theorem State.raiseTxErr_host (s : State) :
    s.raiseTxErr.host = s.host := rfl
@[simp] theorem State.raiseTxErr_env (s : State) :
    s.raiseTxErr.env = s.env := rfl

/-! ### load -/

@[simp] theorem State.load_cfg (s : State) (d : Desc) :
    (s.load d).cfg = s.cfg := rfl
@[simp] theorem State.load_dma (s : State) (d : Desc) :
    (s.load d).dma =
      { s.dma with
        ti := d.ti, sourceAd := d.src, destAd := d.dst, txfrLen := d.len, stride := d.stride
        nextconbk := d.next, phase := .loaded } := rfl
@[simp] theorem State.load_dmaFault (s : State) (d : Desc) :
    (s.load d).dmaFault = s.dmaFault := rfl
@[simp] theorem State.load_pcm (s : State) (d : Desc) :
    (s.load d).pcm = s.pcm := rfl
@[simp] theorem State.load_gpio (s : State) (d : Desc) :
    (s.load d).gpio = s.gpio := rfl
@[simp] theorem State.load_mem (s : State) (d : Desc) :
    (s.load d).mem = s.mem := rfl
@[simp] theorem State.load_host (s : State) (d : Desc) :
    (s.load d).host = s.host := rfl
@[simp] theorem State.load_env (s : State) (d : Desc) :
    (s.load d).env = s.env := rfl

/-! ### halt -/

@[simp] theorem State.halt_cfg (s : State) :
    s.halt.cfg = s.cfg := rfl
@[simp] theorem State.halt_dma (s : State) :
    s.halt.dma = { s.dma with active := false, phase := .idle } := rfl
@[simp] theorem State.halt_dmaFault (s : State) :
    s.halt.dmaFault = s.dmaFault := rfl
@[simp] theorem State.halt_pcm (s : State) :
    s.halt.pcm = s.pcm := rfl
@[simp] theorem State.halt_gpio (s : State) :
    s.halt.gpio = s.gpio := rfl
@[simp] theorem State.halt_mem (s : State) :
    s.halt.mem = s.mem := rfl
@[simp] theorem State.halt_host (s : State) :
    s.halt.host = s.host := rfl
@[simp] theorem State.halt_env (s : State) :
    s.halt.env = s.env := rfl

/-! ### advance -/

@[simp] theorem State.advance_cfg (s : State) :
    s.advance.cfg = s.cfg := rfl
@[simp] theorem State.advance_dma (s : State) :
    s.advance.dma =
      { s.dma with
        txfrLen := 0#32, endF := true, conblkAd := s.dma.nextconbk
        intF := s.dma.intF || tiInten s.dma.ti, phase := .needLoad } := rfl
@[simp] theorem State.advance_dmaFault (s : State) :
    s.advance.dmaFault = s.dmaFault := rfl
@[simp] theorem State.advance_pcm (s : State) :
    s.advance.pcm = s.pcm := rfl
@[simp] theorem State.advance_gpio (s : State) :
    s.advance.gpio = s.gpio := rfl
@[simp] theorem State.advance_mem (s : State) :
    s.advance.mem = s.mem := rfl
@[simp] theorem State.advance_host (s : State) :
    s.advance.host = s.host := rfl
@[simp] theorem State.advance_env (s : State) :
    s.advance.env = s.env := rfl

/-! ### resetChannel -/

@[simp] theorem State.resetChannel_cfg (s : State) :
    s.resetChannel.cfg = s.cfg := rfl
@[simp] theorem State.resetChannel_dma (s : State) :
    s.resetChannel.dma =
      { s.dma with
        active := false, endF := false, intF := false, opts := 0#32, conblkAd := 0#32, ti := 0#32
        sourceAd := 0#32, destAd := 0#32, txfrLen := 0#32, stride := 0#32, nextconbk := 0#32
        debugErr := 0#3, phase := .idle, latch := 0#32 } := rfl
@[simp] theorem State.resetChannel_dmaFault (s : State) :
    s.resetChannel.dmaFault = s.dmaFault := rfl
@[simp] theorem State.resetChannel_pcm (s : State) :
    s.resetChannel.pcm = s.pcm := rfl
@[simp] theorem State.resetChannel_gpio (s : State) :
    s.resetChannel.gpio = s.gpio := rfl
@[simp] theorem State.resetChannel_mem (s : State) :
    s.resetChannel.mem = s.mem := rfl
@[simp] theorem State.resetChannel_host (s : State) :
    s.resetChannel.host = s.host := rfl
@[simp] theorem State.resetChannel_env (s : State) :
    s.resetChannel.env = s.env := rfl

/-! ### markRace -/

@[simp] theorem State.markRace_cfg (s : State) :
    s.markRace.cfg = s.cfg := rfl
@[simp] theorem State.markRace_dma (s : State) :
    s.markRace.dma = s.dma := rfl
@[simp] theorem State.markRace_dmaFault (s : State) :
    s.markRace.dmaFault = s.dmaFault := rfl
@[simp] theorem State.markRace_pcm (s : State) :
    s.markRace.pcm = s.pcm := rfl
@[simp] theorem State.markRace_gpio (s : State) :
    s.markRace.gpio = s.gpio := rfl
@[simp] theorem State.markRace_mem (s : State) :
    s.markRace.mem = s.mem := rfl
@[simp] theorem State.markRace_host (s : State) :
    s.markRace.host = { s.host with race := true } := rfl
@[simp] theorem State.markRace_env (s : State) :
    s.markRace.env = s.env := rfl

/-! ### sends -/

@[simp] theorem State.sends_cfg (s : State) (sl : Slot) (v : BitVec 24) :
    (s.sends sl v).cfg = s.cfg := rfl
@[simp] theorem State.sends_dma (s : State) (sl : Slot) (v : BitVec 24) :
    (s.sends sl v).dma = s.dma := rfl
@[simp] theorem State.sends_dmaFault (s : State) (sl : Slot) (v : BitVec 24) :
    (s.sends sl v).dmaFault = s.dmaFault := rfl
@[simp] theorem State.sends_pcm (s : State) (sl : Slot) (v : BitVec 24) :
    (s.sends sl v).pcm = s.pcm := rfl
@[simp] theorem State.sends_gpio (s : State) (sl : Slot) (v : BitVec 24) :
    (s.sends sl v).gpio = s.gpio := rfl
@[simp] theorem State.sends_mem (s : State) (sl : Slot) (v : BitVec 24) :
    (s.sends sl v).mem = s.mem := rfl
@[simp] theorem State.sends_host (s : State) (sl : Slot) (v : BitVec 24) :
    (s.sends sl v).host = s.host := rfl
@[simp] theorem State.sends_env (s : State) (sl : Slot) (v : BitVec 24) :
    (s.sends sl v).env = { s.env with codecOut := s.env.codecOut ++ [⟨sl, v⟩] } := rfl

/-! ### beginPseudo -/

@[simp] theorem State.beginPseudo_cfg (s : State) (p : Pseudo) :
    (s.beginPseudo p).cfg = s.cfg := rfl
@[simp] theorem State.beginPseudo_dma (s : State) (p : Pseudo) :
    (s.beginPseudo p).dma = s.dma := rfl
@[simp] theorem State.beginPseudo_dmaFault (s : State) (p : Pseudo) :
    (s.beginPseudo p).dmaFault = s.dmaFault := rfl
@[simp] theorem State.beginPseudo_pcm (s : State) (p : Pseudo) :
    (s.beginPseudo p).pcm = s.pcm := rfl
@[simp] theorem State.beginPseudo_gpio (s : State) (p : Pseudo) :
    (s.beginPseudo p).gpio = s.gpio := rfl
@[simp] theorem State.beginPseudo_mem (s : State) (p : Pseudo) :
    (s.beginPseudo p).mem = s.mem := rfl
@[simp] theorem State.beginPseudo_host (s : State) (p : Pseudo) :
    (s.beginPseudo p).host = { s.host with ops := pseudoOps p ++ s.host.ops } := rfl
@[simp] theorem State.beginPseudo_env (s : State) (p : Pseudo) :
    (s.beginPseudo p).env = s.env := rfl

/-! ### recordLoopFault -/

@[simp] theorem State.recordLoopFault_cfg (s : State) :
    s.recordLoopFault.cfg = s.cfg := rfl
@[simp] theorem State.recordLoopFault_dma (s : State) :
    s.recordLoopFault.dma = s.dma := rfl
@[simp] theorem State.recordLoopFault_dmaFault (s : State) :
    s.recordLoopFault.dmaFault = s.dmaFault := rfl
@[simp] theorem State.recordLoopFault_pcm (s : State) :
    s.recordLoopFault.pcm = s.pcm := rfl
@[simp] theorem State.recordLoopFault_gpio (s : State) :
    s.recordLoopFault.gpio = s.gpio := rfl
@[simp] theorem State.recordLoopFault_mem (s : State) :
    s.recordLoopFault.mem = s.mem := rfl
@[simp] theorem State.recordLoopFault_host (s : State) :
    s.recordLoopFault.host = { s.host with loopFault := some .positionUndecodable } := rfl
@[simp] theorem State.recordLoopFault_env (s : State) :
    s.recordLoopFault.env = s.env := rfl

/-! ### codecResetStep -/

@[simp] theorem State.codecResetStep_cfg (s : State) (rest : List HostOp) :
    (s.codecResetStep rest).cfg = s.cfg := rfl
@[simp] theorem State.codecResetStep_dma (s : State) (rest : List HostOp) :
    (s.codecResetStep rest).dma = s.dma := rfl
@[simp] theorem State.codecResetStep_dmaFault (s : State) (rest : List HostOp) :
    (s.codecResetStep rest).dmaFault = s.dmaFault := rfl
@[simp] theorem State.codecResetStep_pcm (s : State) (rest : List HostOp) :
    (s.codecResetStep rest).pcm = s.pcm := rfl
@[simp] theorem State.codecResetStep_gpio (s : State) (rest : List HostOp) :
    (s.codecResetStep rest).gpio = s.gpio := rfl
@[simp] theorem State.codecResetStep_mem (s : State) (rest : List HostOp) :
    (s.codecResetStep rest).mem = s.mem := rfl
@[simp] theorem State.codecResetStep_host (s : State) (rest : List HostOp) :
    (s.codecResetStep rest).host = { s.host with ops := rest } := rfl
@[simp] theorem State.codecResetStep_env (s : State) (rest : List HostOp) :
    (s.codecResetStep rest).env = { s.env with codecUp := false, codecClk := false } := rfl

/-! ### codecClockTurn -/

@[simp] theorem State.codecClockTurn_cfg (s : State) (on : Bool) :
    (s.codecClockTurn on).cfg = s.cfg := rfl
@[simp] theorem State.codecClockTurn_dma (s : State) (on : Bool) :
    (s.codecClockTurn on).dma = s.dma := rfl
@[simp] theorem State.codecClockTurn_dmaFault (s : State) (on : Bool) :
    (s.codecClockTurn on).dmaFault = s.dmaFault := rfl
@[simp] theorem State.codecClockTurn_pcm (s : State) (on : Bool) :
    (s.codecClockTurn on).pcm = s.pcm := rfl
@[simp] theorem State.codecClockTurn_gpio (s : State) (on : Bool) :
    (s.codecClockTurn on).gpio = s.gpio := rfl
@[simp] theorem State.codecClockTurn_mem (s : State) (on : Bool) :
    (s.codecClockTurn on).mem = s.mem := rfl
@[simp] theorem State.codecClockTurn_host (s : State) (on : Bool) :
    (s.codecClockTurn on).host = s.host := rfl
@[simp] theorem State.codecClockTurn_env (s : State) (on : Bool) :
    (s.codecClockTurn on).env = { s.env with codecClk := on && s.env.codecUp } := rfl

end Sys2Proof.Machine
end

