-- ==== Sys2Proof/Laws/Ops.lean ====
section
/-! SUPPORT. What each shared operation can do, said once: when it answers, with what. -/

namespace Sys2Proof.Machine

/-! ### Words and bits -/

theorem mixFree_getLsbD (mask known free : Word) (i : Nat) :
    (mixFree mask known free).getLsbD i =
      if mask.getLsbD i then known.getLsbD i
      else (free.getLsbD i && decide (i < 32)) := by
  simp only [mixFree, BitVec.getLsbD_or, BitVec.getLsbD_and, BitVec.getLsbD_not]
  cases mask.getLsbD i <;> cases known.getLsbD i <;> cases free.getLsbD i <;> simp

theorem flagBit_getLsbD (b : Bool) (n i : Nat) :
    (flagBit b n).getLsbD i = (b && decide (i = n) && decide (i < 32)) := by
  cases b
  · simp [flagBit]
  · simp only [flagBit, if_true, BitVec.getLsbD_shiftLeft]
    by_cases h : i = n
    · subst h; simp
    · by_cases h' : i < n
      · simp [h', h]
      · have : i - n ≠ 0 := by omega
        simp [BitVec.getLsbD_one, h, this]

theorem flagBit_getElem (b : Bool) (n i : Nat) (h : i < 32) :
    (flagBit b n)[i] = (b && decide (i = n)) := by
  have := flagBit_getLsbD b n i
  rw [BitVec.getLsbD_eq_getElem h] at this
  simpa [h] using this

/-- A word whose bits outside a mask are 0 has bit `i` 0 when the mask has. -/
theorem getLsbD_eq_false_of_mask {w m : Word} (h : w &&& ~~~m = 0#32) {i : Nat}
    (hi : m.getLsbD i = false) : w.getLsbD i = false := by
  by_cases h32 : i < 32
  · have := congrArg (fun x => x.getLsbD i) h
    simp only [BitVec.getLsbD_and, BitVec.getLsbD_not, hi] at this
    simpa [h32] using this
  · exact BitVec.getLsbD_of_ge _ _ (by omega)

theorem bankMask_getLsbD (bank b : Fin 2) (v : Word) {i : Nat} (hi : i < 32) :
    (bankMask bank v).getLsbD (32 * b.val + i) = (decide (b = bank) && v.getLsbD i) := by
  simp only [bankMask, BitVec.getLsbD_shiftLeft, BitVec.getLsbD_setWidth]
  fin_cases b <;> fin_cases bank <;> simp [hi, show i < 64 by omega, show 32 + i < 64 by omega]

/-! ### The FIFO port and the bus -/

theorem popRx_ok {s t : State} {w : Word} (h : s.popRx = .ok (w, t)) :
    ∃ r, s.pcm.rxfifo = w :: r ∧ t = s.withPcm { s.pcm with rxfifo := r } := by
  unfold State.popRx at h
  split at h
  · cases h
  · cases h; exact ⟨_, ‹_›, rfl⟩

theorem popRx_ne_busError (s : State) : s.popRx ≠ .busError := by
  unfold State.popRx; split <;> simp

theorem pushTx_ok {s t : State} {v : Word} (h : s.pushTx v = .ok t) :
    s.pcm.txfifo.length < s.cfg.fifoDepth ∧
      t = s.withPcm { s.pcm with txfifo := s.pcm.txfifo ++ [v] } := by
  unfold State.pushTx at h
  split at h
  · cases h; exact ⟨‹_›, rfl⟩
  · cases h

theorem wordInBlock_iff (s : State) (a : Word) :
    s.wordInBlock a = true ↔ a.toNat % 4 = 0 ∧ s.cfg.inBlock a.toNat 4 = true := by
  simp [State.wordInBlock]

theorem busRead_ok {s t : State} {a w : Word} (h : s.busRead a = .ok (w, t)) :
    (a = s.cfg.pcmFifoBus ∧ ∃ r, s.pcm.rxfifo = w :: r ∧ t = s.withPcm { s.pcm with rxfifo := r }) ∨
    (a ≠ s.cfg.pcmFifoBus ∧ s.wordInBlock a = true ∧ w = Memory.readWord s.mem a.toNat ∧ t = s) := by
  unfold State.busRead at h
  split_ifs at h with h1 h2
  · exact .inl ⟨h1, popRx_ok h⟩
  · cases h; exact .inr ⟨h1, h2, rfl, rfl⟩

theorem busWrite_ok {s t : State} {a v : Word} (h : s.busWrite a v = .ok t) :
    (a = s.cfg.pcmFifoBus ∧ s.pcm.txfifo.length < s.cfg.fifoDepth ∧
      t = s.withPcm { s.pcm with txfifo := s.pcm.txfifo ++ [v] }) ∨
    (a ≠ s.cfg.pcmFifoBus ∧ s.wordInBlock a = true ∧
      t = s.withMem (Memory.writeWord s.mem a.toNat v)) := by
  unfold State.busWrite at h
  split_ifs at h with h1 h2
  · exact .inl ⟨h1, pushTx_ok h⟩
  · cases h; exact .inr ⟨h1, h2, rfl⟩

theorem hostRead_ok {s t : State} {a w : Word} (h : s.hostRead a = .ok (w, t)) :
    (a = s.cfg.pcmFifoBus ∧ s.pcm.en = true ∧
      ∃ r, s.pcm.rxfifo = w :: r ∧ t = s.withPcm { s.pcm with rxfifo := r }) ∨
    (a ≠ s.cfg.pcmFifoBus ∧ s.wordInBlock a = true ∧ w = Memory.readWord s.mem a.toNat ∧
      t = if s.isLive a.toNat then s.markRace else s) := by
  unfold State.hostRead at h
  split_ifs at h with h1 h2 h3 h4
  · exact .inl ⟨h1, h2, popRx_ok h⟩
  · cases h; exact .inr ⟨h1, h3, rfl, by simp [h4]⟩
  · cases h; exact .inr ⟨h1, h3, rfl, by simp [h4]⟩

theorem hostWrite_ok {s t : State} {a v : Word} (h : s.hostWrite a v = .ok t) :
    (a = s.cfg.pcmFifoBus ∧ s.pcm.en = true ∧ s.pcm.txfifo.length < s.cfg.fifoDepth ∧
      t = s.withPcm { s.pcm with txfifo := s.pcm.txfifo ++ [v] }) ∨
    (a ≠ s.cfg.pcmFifoBus ∧ s.wordInBlock a = true ∧ s.isLive a.toNat = false ∧
      ¬(s.dma.active = true ∧ s.cfg.inDescArea a.toNat = true) ∧
      t = s.withMem (Memory.writeWord s.mem a.toNat v)) := by
  unfold State.hostWrite at h
  split_ifs at h with h1 h2 h3 h4 h5
  · exact .inl ⟨h1, h2, pushTx_ok h⟩
  · cases h
    exact .inr ⟨h1, h3, by simpa using h5, by simpa using h4, rfl⟩

/-! ### The engine -/

/-- With its request signal high a receive descriptor's read beat finds a word (43 R209). -/
theorem rxDreq_ne_nil {s : State} (h : s.rxDreq = true) : s.pcm.rxfifo ≠ [] := by
  intro h'
  simp [State.rxDreq, h'] at h

/-- With its request signal high the transmit queue has room (43 R210). -/
theorem txDreq_room {s : State} (h : s.txDreq = true) : s.pcm.txfifo.length < s.cfg.fifoDepth := by
  simp only [State.txDreq, Bool.and_eq_true, decide_eq_true_eq] at h
  exact lt_of_lt_of_le h.2 (min_le_left _ _)

theorem engineRuns_iff (s : State) :
    s.engineRuns = true ↔ s.dma.active = true ∧ s.dmaFault = none := by
  simp [State.engineRuns]

theorem readBeat_next {s t : State} (h : s.readBeat = .next t) :
    t = s.busFault ∨ ∃ w u, s.busRead s.dma.sourceAd = .ok (w, u) ∧
      t = u.withDma { u.dma with latch := w, phase := .latched } := by
  unfold State.readBeat at h
  split at h
  · cases h; exact .inr ⟨_, _, ‹_›, rfl⟩
  · cases h; exact .inl rfl
  · cases h

theorem writeBeat_next {s t : State} (h : s.writeBeat = .next t) :
    t = s.busFault ∨ ∃ u, s.busWrite s.dma.destAd s.dma.latch = .ok u ∧ t = u.advance := by
  unfold State.writeBeat at h
  split at h
  · cases h; exact .inr ⟨_, ‹_›, rfl⟩
  · cases h; exact .inl rfl
  · cases h

/-- Everything an engine step of an admitted descriptor can do. -/
theorem transferStep_next {s t : State} {d : Desc} {dreq : Bool} (h : s.transferStep d dreq = .next t) :
    t = s ∨ (s.engineRuns = true ∧
      ((s.dma.phase = .needLoad ∧ t = s.load d) ∨
       (s.dma.phase = .loaded ∧ dreq = true ∧ s.readBeat = .next t) ∨
       (s.dma.phase = .latched ∧ s.writeBeat = .next t))) := by
  unfold State.transferStep at h
  by_cases hr : s.engineRuns = true
  · rw [if_pos hr] at h
    cases hp : s.dma.phase <;> rw [hp] at h
    · cases h; exact .inl rfl
    · cases h; exact .inr ⟨hr, .inl ⟨rfl, rfl⟩⟩
    · cases hd : dreq <;> simp only [hd, if_true, Bool.false_eq_true, if_false] at h
      · cases h; exact .inl rfl
      · exact .inr ⟨hr, .inr (.inl ⟨rfl, rfl, h⟩)⟩
    · exact .inr ⟨hr, .inr (.inr ⟨rfl, h⟩)⟩
  · rw [if_neg hr] at h
    cases h; exact .inl rfl

/-- A loaded `TI` of the receive kind runs `XFER.RX` (30 R94). -/
theorem loadedInstr_rx {s : State} (h : s.dma.ti &&& 0x001F0FF3#32 = 0x00030400#32) :
    s.loadedInstr = .xferRx s.loadedDesc := if_pos h

/-- A loaded `TI` of the transmit kind runs `XFER.TX` (30 R94). -/
theorem loadedInstr_tx {s : State} (h : s.dma.ti &&& 0x001F0FF3#32 = 0x00020040#32) :
    s.loadedInstr = .xferTx s.loadedDesc :=
  (if_neg fun h' => absurd (h.symm.trans h') (by decide)).trans (if_pos h)

/-- A descriptor slot lies whole inside the block (20 R65). -/
theorem isDescSlot_inBlock {c : Cfg} {a : Nat} (h : c.isDescSlot a = true) : c.inBlock a 32 = true := by
  simp only [Cfg.isDescSlot, Cfg.inBlock, Bool.and_eq_true, decide_eq_true_eq] at h ⊢
  simp only [Cfg.descBus, Cfg.blockLen] at h ⊢
  omega

/-- The descriptor slots are the addresses `desc_addr(i)` (20 R65). -/
theorem isDescSlot_iff (c : Cfg) (a : Nat) : c.isDescSlot a = true ↔ ∃ i < c.nDesc, a = c.descAddr i := by
  simp only [Cfg.isDescSlot, Cfg.descAddr, Bool.and_eq_true, decide_eq_true_eq]
  constructor
  · rintro ⟨⟨h1, h2⟩, h3⟩
    exact ⟨(a - c.descBus) / 32, by omega, by omega⟩
  · rintro ⟨i, hi, rfl⟩
    omega

/-- The addresses a descriptor is loaded from (20 R68, R71, 42 R163; log 11). -/
theorem descAddrOk_iff (s : State) : s.descAddrOk = true ↔
    s.dma.conblkAd.toNat % 32 = 0 ∧ s.cfg.inBlock s.dma.conblkAd.toNat 32 = true ∧
      (s.cfg.descSlotsOnly = true → ∃ i < s.cfg.nDesc, s.dma.conblkAd.toNat = s.cfg.descAddr i) := by
  rw [← isDescSlot_iff]
  simp only [State.descAddrOk, Bool.and_eq_true, Bool.or_eq_true, Bool.not_eq_true', decide_eq_true_eq,
    and_assoc]
  cases s.cfg.descSlotsOnly <;> simp

/-! ### Transactions -/

theorem onChannel_next {s t : State} {ch : BitVec 4} {r : Res} (h : s.onChannel ch r = .next t) :
    ch = s.cfg.dmaChannel ∧ r = .next t := by
  unfold State.onChannel at h
  split_ifs at h with hc
  exact ⟨hc, h⟩

theorem programs_next {s t : State} {r : Res} (h : s.programs r = .next t) :
    s.pcm.en = true ∧ r = .next t := by
  unfold State.programs at h
  split_ifs at h with hc
  exact ⟨hc, h⟩

theorem portRead_next {x : Access (Word × State)} {t : State} (h : portRead x = .next t) :
    ∃ w u, x = .ok (w, u) ∧ t = u.returns (.word w) := by
  unfold portRead at h
  split at h
  · cases h; exact ⟨_, _, rfl, rfl⟩
  · cases h
  · cases h

theorem portWrite_next {x : Access State} {t : State} (h : portWrite x = .next t) : x = .ok t := by
  unfold portWrite at h
  split at h <;> cases h
  rfl

theorem walkWrite_next {s t : State} {a v : Word} {rest : List HostOp}
    (h : s.walkWrite a v rest = .next t) : ∃ u, s.hostWrite a v = .ok u ∧ t = u.withOps rest := by
  unfold State.walkWrite at h
  split at h
  · cases h; exact ⟨_, ‹_›, rfl⟩
  · cases h
  · cases h

theorem pseudoTurn_next {s t : State} {p : Pseudo} (h : s.pseudoTurn p = .next t) :
    t = s.beginPseudo p := by
  unfold State.pseudoTurn at h
  split at h <;> cases h
  rfl

/-- A next state of an encoded instruction is `exec`'s, of the instruction it decodes to. -/
theorem runEncoded_next {s t : State} {e : Encoded} (h : s.runEncoded e = .next t) :
    ∃ i, decode s.cfg e = .ok i ∧ exec i s = .next t := by
  unfold State.runEncoded at h
  split at h
  · exact ⟨_, ‹_›, h⟩
  · cases h

/-- HOST's issue of a well-formed instruction inside its window is `exec` of it. -/
theorem runEncoded_encode {s : State} {i : Instr} (hd : Laws.EncodingRoundTrip.Statement i)
    (hw : s.cfg.windowsHold = true) (hi : WellFormed s.cfg i = true) :
    s.runEncoded (encode i) = exec i s := by
  unfold State.runEncoded
  rw [hd _ hw hi]

theorem issues_next {s t : State} {i : Instr} {r : Res} (h : s.issues i r = .next t) : r = .next t := by
  unfold State.issues at h
  split at h
  · exact h
  · cases h

/-- Inside its window a transaction's effect is the one given. -/
theorem issues_eq {s : State} {i : Instr} (r : Res) (hd : Laws.EncodingRoundTrip.Statement i)
    (hw : s.cfg.windowsHold = true) (hi : WellFormed s.cfg i = true) : s.issues i r = r := by
  unfold State.issues
  rw [hd _ hw hi]

/-- The position register is reached exactly inside the DMA window (40 R122). -/
theorem decode_dmaRdpos (c : Cfg) (ch : BitVec 4) : decode c (encode (.dmaRdpos ch)) =
    if c.winDma ≤ 256 * ch.toNat + 4 then .error .outOfWindow else .ok (.dmaRdpos ch) := by
  have h : ∀ ch : BitVec 4, (0#1 ++ ch ++ 4#8 : BitVec 13).toNat = 256 * ch.toNat + 4 ∧
      (0#1 ++ ch ++ 4#8 : BitVec 13).extractLsb' 0 2 = 0#2 ∧
      decodeDma 0#2 (0#1 ++ ch ++ 4#8) 0#32 = .ok (.dmaRdpos ch) := by decide
  obtain ⟨h1, h2, h3⟩ := h ch
  refine (Laws.decodeReg_regPack c 2#2 0#2 (0#1 ++ ch ++ 4#8) 0#32).trans ?_
  rw [if_neg (by decide), if_neg (by decide), if_neg (by simp [h2]), if_neg (by decide : ¬(2#2 = 0#2)),
    if_neg (by decide : ¬(2#2 = 1#2)), h1, h3]
  rfl

/-- `CS_A` is reached exactly inside the PCM window (40 R122). -/
theorem decode_pcmRdcs (c : Cfg) : decode c (encode .pcmRdcs) =
    if c.winPcm = 0 then .error .outOfWindow else .ok .pcmRdcs := by
  refine (Laws.decodeReg_regPack c 1#2 0#2 0#13 0#32).trans ?_
  rw [if_neg (by decide), if_neg (by decide), if_neg (by decide), if_neg (by decide : ¬(1#2 = 0#2)),
    if_pos rfl]
  exact if_congr Nat.le_zero rfl rfl

/-- The same of a write of `CS_A`. -/
theorem decode_pcmWrcs (c : Cfg) (v : Word) : decode c (encode (.pcmWrcs v)) =
    if c.winPcm = 0 then .error .outOfWindow else .ok (.pcmWrcs v) := by
  refine (Laws.decodeReg_regPack c 1#2 1#2 0#13 v).trans ?_
  rw [if_neg (by decide), if_neg (by decide), if_neg (by decide), if_neg (by decide : ¬(1#2 = 0#2)),
    if_pos rfl]
  exact if_congr Nat.le_zero rfl rfl

/-- A GPIO register is reached exactly inside the GPIO window (40 R122). -/
theorem decode_gpioReg (c : Cfg) {kind : BitVec 2} {o : BitVec 13} {v : Word} (hk : kind ≠ 3#2)
    (ha : o.extractLsb' 0 2 = 0#2) : decode c (.reg (regPack (gpioTuple kind o v))) =
    if c.winGpio ≤ o.toNat then .error .outOfWindow else decodeGpio kind o v := by
  refine (Laws.decodeReg_regPack c 0#2 kind o v).trans ?_
  rw [if_neg (by decide), if_neg (by simpa using hk), if_neg (by simpa using ha), if_pos rfl]
  rfl

theorem decode_gpioRead (c : Cfg) (b : Fin 2) : decode c (encode (.gpioRead b)) =
    if c.winGpio ≤ 0x34 + 4 * b.val then .error .outOfWindow else .ok (.gpioRead b) := by
  refine (decode_gpioReg c (by decide) (by fin_cases b <;> decide)).trans ?_
  fin_cases b <;> rfl

theorem decode_gpioPud (c : Cfg) (v : Word) : decode c (encode (.gpioPud v)) =
    if c.winGpio ≤ 0x94 then .error .outOfWindow else .ok (.gpioPud v) :=
  decode_gpioReg c (by decide) (by decide)

theorem decode_gpioPudclk (c : Cfg) (b : Fin 2) (v : Word) : decode c (encode (.gpioPudclk b v)) =
    if c.winGpio ≤ 0x98 + 4 * b.val then .error .outOfWindow else .ok (.gpioPudclk b v) := by
  refine (decode_gpioReg c (by decide) (by fin_cases b <;> decide)).trans ?_
  fin_cases b <;> rfl

/-- The bank of a pin below 64 (40 R126). -/
theorem pinBank_val {pin : Nat} (h : pin < 64) : (pinBank pin).val = pin / 32 := by
  unfold pinBank
  split_ifs <;> simp <;> omega

/-- The block meets no window exactly as 00 R10 asks, the block not being empty. -/
theorem apart_iff {c : Cfg} (hb : 0 < c.blockLen) (a n : Nat) : c.apart a n = true ↔
    ∀ x, c.blockBus.toNat ≤ x → x < c.blockBus.toNat + c.blockLen → ¬(a ≤ x ∧ x < a + n) := by
  simp only [Cfg.apart, Bool.or_eq_true, decide_eq_true_eq]
  constructor
  · intro h x; omega
  · intro h
    have h1 := h c.blockBus.toNat
    have h2 := h a
    omega

theorem blockLen_pos {c : Cfg} (h : 1 ≤ c.blockSize) : 0 < c.blockLen := by
  have : 0 < c.nDesc :=
    Nat.mul_pos (Nat.mul_pos (Nat.mul_pos (by decide) h) (by decide)) (by decide)
  simp only [Cfg.blockLen]
  omega

/-! ### What each update keeps of the engine's registers -/

@[simp] theorem load_cfg (s : State) (d : Desc) : (s.load d).cfg = s.cfg := rfl
@[simp] theorem load_mem (s : State) (d : Desc) : (s.load d).mem = s.mem := rfl
@[simp] theorem load_pcm (s : State) (d : Desc) : (s.load d).pcm = s.pcm := rfl
@[simp] theorem load_host (s : State) (d : Desc) : (s.load d).host = s.host := rfl
@[simp] theorem load_conblkAd (s : State) (d : Desc) : (s.load d).dma.conblkAd = s.dma.conblkAd := rfl
@[simp] theorem advance_cfg (s : State) : s.advance.cfg = s.cfg := rfl
@[simp] theorem advance_mem (s : State) : s.advance.mem = s.mem := rfl
@[simp] theorem advance_pcm (s : State) : s.advance.pcm = s.pcm := rfl
@[simp] theorem advance_host (s : State) : s.advance.host = s.host := rfl
@[simp] theorem advance_conblkAd (s : State) : s.advance.dma.conblkAd = s.dma.nextconbk := rfl
@[simp] theorem advance_phase (s : State) : s.advance.dma.phase = .needLoad := rfl
@[simp] theorem halt_cfg (s : State) : s.halt.cfg = s.cfg := rfl
@[simp] theorem halt_mem (s : State) : s.halt.mem = s.mem := rfl
@[simp] theorem halt_pcm (s : State) : s.halt.pcm = s.pcm := rfl
@[simp] theorem halt_host (s : State) : s.halt.host = s.host := rfl
@[simp] theorem busFault_cfg (s : State) : s.busFault.cfg = s.cfg := rfl
@[simp] theorem busFault_mem (s : State) : s.busFault.mem = s.mem := rfl
@[simp] theorem busFault_pcm (s : State) : s.busFault.pcm = s.pcm := rfl
@[simp] theorem busFault_host (s : State) : s.busFault.host = s.host := rfl
@[simp] theorem busFault_dmaFault (s : State) : s.busFault.dmaFault = some .dmaBusError := rfl

/-! ### Memory inside the block -/

theorem inside_writeByte {c : Cfg} : ∀ {m : List Host.Cell} {a : Nat} (v : Byte),
    Memory.inside c m = true → c.inBlock a 1 = true → Memory.inside c (Memory.writeByte m a v) = true
  | [], a, v, _, ha => by
    unfold Memory.writeByte
    split_ifs <;> simp [Memory.inside, ha]
  | (k, w) :: r, a, v, h, ha => by
    have hc : c.inBlock k 1 = true ∧ Memory.inside c r = true := by simpa [Memory.inside] using h
    unfold Memory.writeByte
    split_ifs
    · exact h
    · exact (Bool.and_eq_true _ _).mpr ⟨ha, h⟩
    · exact hc.2
    · exact (Bool.and_eq_true _ _).mpr ⟨ha, hc.2⟩
    · exact (Bool.and_eq_true _ _).mpr ⟨hc.1, inside_writeByte v hc.2 ha⟩

/-- A word written inside the block keeps memory inside the block. -/
theorem inside_writeWord {c : Cfg} {m : List Host.Cell} {a : Nat} (v : Word)
    (h : Memory.inside c m = true) (ha : c.inBlock a 4 = true) :
    Memory.inside c (Memory.writeWord m a v) = true := by
  have hb : ∀ j < 4, c.inBlock (a + j) 1 = true := by
    intro j hj
    simp only [Cfg.inBlock, Bool.and_eq_true, decide_eq_true_eq] at ha ⊢
    omega
  exact inside_writeByte _ (inside_writeByte _ (inside_writeByte _ (inside_writeByte _ h
    (hb 0 (by omega))) (hb 1 (by omega))) (hb 2 (by omega))) (hb 3 (by omega))

end Sys2Proof.Machine
end

