-- ==== Sys2Proof/Tests/Slice0.lean ====
section
/-! SUPPORT. Tests against the spec's own vectors (95_test_vectors), the smoke tests of the
well-formedness checks, and a witness for every statement that has hypotheses. -/

namespace Sys2Proof.Tests

open Sys2Proof.Machine

/-! ### States the tests stand on -/

/-- The configuration of 95 V1: blocks of two frames; channel 5 as in 95 P2. -/
def v1 : Cfg := { Cfg.default with blockSize := 2, dmaChannel := 5#4 }

/-- The configuration of 95 P4: a FIFO of four words. -/
def p4 : Cfg := { v1 with fifoDepth := 4, txReqLevel := 3 }

/-- Reset with the configuration of 95 V1. -/
def base : State := { State.reset with cfg := v1 }

/-- The DMA channel of `base` running in a phase at an address. -/
def running (ph : Phase) (a : Word) : State :=
  { base with dma := { base.dma with active := true, phase := ph, conblkAd := a } }

/-- `s` with stored `CS_A` fields, `DREQ_A` and the two queues. -/
def withFifos (s : State) (cs dreq : Word) (rx tx : List Word) : State :=
  { s with pcm := { s.pcm with csStored := cs, dreqA := dreq, rxfifo := rx, txfifo := tx } }

/-- The engine loaded with a descriptor's words. -/
def loadedWith (d : Desc) (ph : Phase) (a : Word) : State :=
  { running ph a with dma := { (running ph a).dma with
    ti := d.ti, sourceAd := d.src, destAd := d.dst, txfrLen := d.len, stride := d.stride
    nextconbk := d.next } }

/-- Descriptors 0 and 1 of 95 V1. -/
def d0 : Desc := ⟨0x04030408#32, 0x7E203004#32, 0xDE000200#32, 4#32, 0#32, 0xDE000020#32, 0#32, 0#32⟩
def d1 : Desc := ⟨0x04020048#32, 0xDE000240#32, 0x7E203004#32, 4#32, 0#32, 0xDE000040#32, 0#32, 0#32⟩

/-- HOST with pending operations. -/
def withOps (s : State) (ops : List HostOp) : State := { s with host := { s.host with ops := ops } }

/-- The state an outcome gives, if any. -/
def nextOf : Res → Option State
  | .next t => some t
  | _ => none

/-- The refusal an outcome gives, if any. -/
def stopOf : Res → Option Refusal
  | .refused r => some r
  | _ => none

/-! ### Well-formedness: a term each check refuses -/

theorem test_wf_accepts : WellFormed v1 (.xferRx d0) = true ∧ WellFormed v1 (.xferTx d1) = true ∧
    WellFormed v1 (.xferOther { d0 with len := 8#32 }) = true := by decide

theorem test_wf_refuses_descriptors : WellFormed v1 (.xferRx d1) = false ∧
    WellFormed v1 (.xferTx d0) = false ∧ WellFormed v1 (.xferOther d0) = false ∧
    WellFormed v1 (.xferOther d1) = false := by decide

theorem test_wf_refuses_cs_data : WellFormed v1 (.dmaReset 0#4 1#32) = false ∧
    WellFormed v1 (.dmaAbort 0#4 0x80000000#32) = false ∧ WellFormed v1 (.dmaAbort 0#4 1#32) = false ∧
    WellFormed v1 (.dmaGo 0#4 0x40000001#32) = false ∧ WellFormed v1 (.dmaGo 0#4 0#32) = false ∧
    WellFormed v1 (.dmaPause 0#4 1#32) = false := by decide

theorem test_cfg_wf_accepts : v1.wf = true ∧ p4.wf = true ∧ Cfg.default.wf = true := by decide

theorem test_cfg_wf_refuses_block : Cfg.wf { v1 with blockSize := 0 } = false ∧
    Cfg.wf { v1 with blockBus := 0xDE000010#32 } = false ∧
    Cfg.wf { v1 with blockBus := 0xFFFFFE00#32 } = false ∧
    Cfg.wf { v1 with pcmFifoBus := 0xDE00027C#32 } = false := by decide

/-- 00 R10: the block meets no register window, the byte before and after it included. -/
theorem test_cfg_wf_refuses_windows : Cfg.wf { v1 with blockBus := 0x7E203020#32 } = false ∧
    Cfg.wf { v1 with blockBus := 0x7E1FFDA0#32 } = false ∧ Cfg.wf { v1 with blockBus := 0x7E1FFD80#32 } = true ∧
    Cfg.wf { v1 with blockBus := 0x7E007FE0#32 } = false ∧ Cfg.wf { v1 with blockBus := 0x7E008000#32 } = true := by
  decide

theorem test_cfg_wf_refuses_levels : Cfg.wf { v1 with prefillWords := 0 } = false ∧
    Cfg.wf { v1 with prefillWords := 3 } = false ∧ Cfg.wf { v1 with prefillWords := 66 } = false ∧
    Cfg.wf { v1 with rxReqLevel := 0 } = false ∧ Cfg.wf { v1 with rxReqLevel := 65 } = false ∧
    Cfg.wf { v1 with txReqLevel := 0 } = false ∧ Cfg.wf { v1 with txReqLevel := 65 } = false ∧
    Cfg.wf { v1 with txReqLevel := 2 } = false := by decide

theorem test_windows_hold : v1.windowsHold = true ∧ Cfg.windowsHold { v1 with winGpio := 156 } = false ∧
    Cfg.windowsHold { v1 with winPcm := 28 } = false ∧
    Cfg.windowsHold { v1 with winDma := 4092 } = false := by decide

/-! ### Decoding of words written out from 30 R94, R99, R100, R101 (most are lines of 95 V4, V6) -/

theorem test_decode_xfer : decode v1 (.desc d0) = .ok (.xferRx d0) ∧
    decode v1 (.desc d1) = .ok (.xferTx d1) ∧
    decode v1 (.desc { d0 with ti := 0x04030409#32 }) =
      .ok (.xferOther { d0 with ti := 0x04030409#32 }) := by decide

theorem test_decode_dma_cs : decode v1 (.reg 0x1050000000000#49) = .ok (.dmaRdcs 5#4) ∧
    decode v1 (.reg 0x1250080000000#49) = .ok (.dmaReset 5#4 0x80000000#32) ∧
    decode v1 (.reg 0x1250040000000#49) = .ok (.dmaAbort 5#4 0x40000000#32) ∧
    decode v1 (.reg 0x1250000000001#49) = .ok (.dmaGo 5#4 0x00000001#32) ∧
    decode v1 (.reg 0x1250000000000#49) = .ok (.dmaPause 5#4 0#32) := by decide

theorem test_decode_dma_regs : decode v1 (.reg 0x1050400000000#49) = .ok (.dmaRdpos 5#4) ∧
    decode v1 (.reg 0x12504DE000000#49) = .ok (.dmaSetcb 5#4 0xDE000000#32) ∧
    decode v1 (.reg 0x1050800000000#49) = .ok (.dmaRdti 5#4) ∧
    decode v1 (.reg 0x1050C00000000#49) = .ok (.dmaRdsrc 5#4) ∧
    decode v1 (.reg 0x1051000000000#49) = .ok (.dmaRddst 5#4) ∧
    decode v1 (.reg 0x1051400000000#49) = .ok (.dmaRdlen 5#4) ∧
    decode v1 (.reg 0x1051800000000#49) = .ok (.dmaRdstride 5#4) ∧
    decode v1 (.reg 0x1051C00000000#49) = .ok (.dmaRdnext 5#4) ∧
    decode v1 (.reg 0x1052000000000#49) = .ok (.dmaRddbg 5#4) ∧
    decode v1 (.reg 0x1252000000007#49) = .ok (.dmaClrdbg 5#4 7#32) := by decide

theorem test_decode_pcm : decode v1 (.reg 0x0800000000000#49) = .ok .pcmRdcs ∧
    decode v1 (.reg 0x0A000008182A7#49) = .ok (.pcmWrcs 0x008182A7#32) ∧
    decode v1 (.reg 0x0800400000000#49) = .ok .pcmRdfifo ∧
    decode v1 (.reg 0x0A00400000000#49) = .ok (.pcmWrfifo 0#32) ∧
    decode v1 (.reg 0x0800800000000#49) = .ok .pcmRdmode ∧
    decode v1 (.reg 0x0A00800A0FC20#49) = .ok (.pcmWrmode 0x00A0FC20#32) ∧
    decode v1 (.reg 0x0800C00000000#49) = .ok .pcmRdrxc ∧
    decode v1 (.reg 0x0A00CC010C210#49) = .ok (.pcmWrrxc 0xC010C210#32) := by decide

theorem test_decode_pcm_more : decode v1 (.reg 0x0801000000000#49) = .ok .pcmRdtxc ∧
    decode v1 (.reg 0x0A010C010C210#49) = .ok (.pcmWrtxc 0xC010C210#32) ∧
    decode v1 (.reg 0x0801400000000#49) = .ok .pcmRddreq ∧
    decode v1 (.reg 0x0A01410100401#49) = .ok (.pcmWrdreq 0x10100401#32) ∧
    decode v1 (.reg 0x0801800000000#49) = .ok .pcmRdinten ∧
    decode v1 (.reg 0x0A01800000000#49) = .ok (.pcmWrinten 0#32) ∧
    decode v1 (.reg 0x0801C00000000#49) = .ok .pcmRdintstc ∧
    decode v1 (.reg 0x0A01C0000000F#49) = .ok (.pcmWrintstc 15#32) := by decide

theorem test_decode_gpio : decode v1 (.reg 0x0400400000084#49) = .ok (.gpioSetfn 1 8 4#3) ∧
    decode v1 (.reg 0x0201C00040000#49) = .ok (.gpioSet 0 0x00040000#32) ∧
    decode v1 (.reg 0x0202000000001#49) = .ok (.gpioSet 1 1#32) ∧
    decode v1 (.reg 0x0202800040000#49) = .ok (.gpioClr 0 0x00040000#32) ∧
    decode v1 (.reg 0x0003400000000#49) = .ok (.gpioRead 0) ∧
    decode v1 (.reg 0x0003800000000#49) = .ok (.gpioRead 1) ∧
    decode v1 (.reg 0x0209400000002#49) = .ok (.gpioPud 2#32) ∧
    decode v1 (.reg 0x0209800040000#49) = .ok (.gpioPudclk 0 0x00040000#32) := by decide

theorem test_decode_cvt : decode v1 (.cvt 0#2 7#32 0#32 0#32 0#32) = .ok (.cvtI2f 7#32) ∧
    decode v1 (.cvt 1#2 1#32 2#32 3#32 4#32) = .ok (.cvtI2fV4 1#32 2#32 3#32 4#32) ∧
    decode v1 (.cvt 2#2 7#32 0#32 0#32 0#32) = .ok (.cvtF2i 7#32) ∧
    decode v1 (.cvt 3#2 1#32 2#32 3#32 4#32) = .ok (.cvtF2iV4 1#32 2#32 3#32 4#32) := by decide

/-- Illegal tuples (30 R100, 95 V4), and two whose `rmw` data is not of the form of 30 R99 (log 32). -/
theorem test_decode_illegal : decode v1 (.reg 0x0800200000000#49) = .error .misaligned ∧
    decode v1 (.reg 0x0A02000000000#49) = .error .unlisted ∧
    decode v1 (.reg 0x1250800000000#49) = .error .unlisted ∧
    decode v1 (.reg 0x0900000000000#49) = .error .outOfWindow ∧
    decode v1 (.reg 0x1800000000000#49) = .error .windowIllegal ∧
    decode v1 (.reg 0x0E00000000000#49) = .error .kindIllegal ∧
    decode v1 (.reg 0x0C00000000000#49) = .error .kindIllegal ∧
    decode v1 (.reg 0x1450000000000#49) = .error .kindIllegal ∧
    decode v1 (.reg 0x04004000000A4#49) = .error .setfnField ∧
    decode v1 (.reg 0x0400400000184#49) = .error .setfnData := by decide

/-- The kinds of 95 V6. -/
theorem test_kinds : Desc.isRx v1 { d0 with ti := 0x00030400#32 } = true ∧
    Desc.isRx v1 { d0 with ti := 0x0C030408#32 } = true ∧
    Desc.isRx v1 { d0 with rsv0 := 1#32, rsv1 := 2#32 } = true ∧
    Desc.isRx v1 { d0 with ti := 0x04030508#32 } = false ∧
    Desc.isRx v1 { d0 with ti := 0x04030418#32 } = false ∧
    Desc.isRx v1 { d0 with ti := 0x04020408#32 } = false ∧
    Desc.isRx v1 { d0 with len := 8#32 } = false ∧ Desc.isRx v1 { d0 with src := 0xDE000240#32 } = false ∧
    Desc.isRx v1 { d0 with stride := 4#32 } = false ∧
    Desc.isTx v1 { d1 with src := 0x7E203004#32 } = false := by decide

/-- The row's bits as the table numbers them, decoded and run by the very next step. -/
theorem test_table_word : decodeTableWord 49 0x0A00000000001 = some (.pcmWrcs 1#32) ∧
    decodeTableWord 2 3 = some (.cvtF2iV4 0#32 0#32 0#32 0#32) ∧
    ((nextOf (step (State.reset.withFetchWord 49 0x0A00000000001))).map (·.pcm.csStored)) = some 1#32 ∧
    stopOf (step (State.reset.withFetchWord 32 0)) = some .xferOther := by decide

/-! ### The chain (95 V1, V3, V5) -/

theorem test_chain_v1 : v1.chainDesc 0 = d0 ∧ v1.chainDesc 1 = d1 ∧
    v1.chainDesc 7 = ⟨0x04020048#32, 0xDE00024C#32, 0x7E203004#32, 4#32, 0#32, 0xDE000100#32, 0#32, 0#32⟩ ∧
    v1.chainDesc 15 = ⟨0x04020048#32, 0xDE00026C#32, 0x7E203004#32, 4#32, 0#32, 0xDE000000#32, 0#32, 0#32⟩ := by
  decide

theorem test_chain_v3 : Cfg.chainDesc { v1 with blockSize := 3 } 12 =
    ⟨0x04030408#32, 0x7E203004#32, 0xDE000320#32, 4#32, 0#32, 0xDE0001A0#32, 0#32, 0#32⟩ ∧
    Cfg.chainDesc { v1 with blockSize := 3 } 23 =
    ⟨0x04020048#32, 0xDE000374#32, 0x7E203004#32, 4#32, 0#32, 0xDE000000#32, 0#32, 0#32⟩ := by decide

theorem test_position_v5 :
    decodePosition Cfg.default 0xDE000000 0xDE002000 0xDE001FE0 = some ⟨0, 63, 1, 1⟩ ∧
    decodePosition Cfg.default 0xDE000000 0xDE002000 0xDE002020 = some ⟨1, 0, 0, 1⟩ ∧
    decodePosition Cfg.default 0xDE000000 0xDE002000 0xDE003FFC = some ⟨1, 63, 1, 1⟩ ∧
    decodePosition Cfg.default 0xDE000000 0xDE002000 0xDE004000 = none ∧
    decodePosition Cfg.default 0xDE000000 0xDE002000 0 = none := by decide

/-! ### The engine (95 V7, P1) -/

/-- Descriptor 0 in memory is loaded (the example of 42 R163). -/
theorem test_load : ((nextOf (State.dmaTurn { running .needLoad 0xDE000000#32 with
      mem := Memory.writeDesc [] 0xDE000000 d0 })).map
      (fun t => (t.dma.ti, t.dma.sourceAd, t.dma.destAd, t.dma.txfrLen, t.dma.nextconbk, t.dma.phase))) =
    some (0x04030408#32, 0x7E203004#32, 0xDE000200#32, 4#32, 0xDE000020#32, .loaded) := by decide

/-- 42 R164's example: the word FFFFFFFF to DE000204. -/
theorem test_xferRx_write : ((nextOf (exec (.xferRx d0)
      { loadedWith { d0 with dst := 0xDE000204#32 } .latched 0xDE000040#32 with
        dma := { (loadedWith { d0 with dst := 0xDE000204#32 } .latched 0xDE000040#32).dma with
          latch := 0xFFFFFFFF#32 } })).map
      (fun t => (Memory.readWord t.mem 0xDE000204, t.dma.conblkAd, t.dma.endF, t.dma.txfrLen))) =
    some (0xFFFFFFFF#32, 0xDE000020#32, true, 0#32) := by decide

theorem test_xferRx_read : ((nextOf (exec (.xferRx d0) (withFifos (loadedWith d0 .loaded 0xDE000000#32)
      0x00000201#32 0x00000401#32 [0xFFFFFFFF#32] []))).map
      (fun t => (t.dma.latch, t.pcm.rxfifo, t.dma.phase))) =
    some (0xFFFFFFFF#32, [], .latched) := by decide

/-- 42 R165's example. -/
theorem test_xferTx_write : ((nextOf (exec (.xferTx d1)
      { withFifos (loadedWith d1 .latched 0xDE000020#32) 0x201#32 0x401#32 [] [0#32] with
        dma := { (loadedWith d1 .latched 0xDE000020#32).dma with latch := 0x11#32 } })).map
      (fun t => (t.pcm.txfifo, t.dma.conblkAd, t.dma.phase))) =
    some ([0#32, 0x11#32], 0xDE000040#32, .needLoad) := by decide

theorem test_xferTx_read : ((nextOf (exec (.xferTx d1)
      { withFifos (loadedWith d1 .loaded 0xDE000020#32) 0x201#32 0x401#32 [] [0#32] with
        mem := Memory.writeWord [] 0xDE000240 0x11#32 })).map (fun t => (t.dma.latch, t.pcm.txfifo))) =
    some (0x11#32, [0#32]) := by decide

theorem test_xferOther : stopOf (exec (.xferOther { d0 with len := 8#32 }) base) = some .xferOther := by
  decide

theorem test_halt : ((nextOf (State.dmaTurn (running .needLoad 0#32))).map
    (fun t => (t.dma.active, t.dma.phase))) = some (false, .idle) := by decide

/-! ### DMA channel transactions (95 V7) -/

theorem test_setcb : ((nextOf (exec (.dmaSetcb 5#4 0xDE000000#32) base)).map
      (fun t => (t.dma.conblkAd, t.dma.phase, t.dma.active))) =
      some (0xDE000000#32, .needLoad, false) ∧
    stopOf (exec (.dmaSetcb 5#4 0#32) (running .loaded 0#32)) = some .setcbActive := by decide

theorem test_go : ((nextOf (exec (.dmaGo 5#4 3#32) { base with dma := { base.dma with endF := true } })).map
    (fun t => (t.dma.endF, t.dma.active))) = some (false, true) ∧
    stopOf (exec (.dmaGo 5#4 0x00000081#32) base) = some .reservedBit := by decide

/-- The abort line of 95 V7. -/
def latchedAt : State :=
  { running .latched 0xDE000100#32 with dma := { (running .latched 0xDE000100#32).dma with
    latch := 0x00123456#32, nextconbk := 0xDE000120#32 } }

theorem test_abort : ((nextOf (exec (.dmaAbort 5#4 0x40000000#32) latchedAt)).map
      (fun t => (t.dma.conblkAd, t.dma.phase, t.dma.active))) =
      some (0xDE000120#32, .needLoad, false) ∧
    ((nextOf (exec (.dmaAbort 5#4 0x40000000#32) latchedAt)).map
      (fun t => (t.pcm.rxfifo, t.mem))) = some ([], []) ∧
    ((nextOf (exec (.dmaAbort 5#4 0x40000001#32) latchedAt)).map (·.dma.active)) = some true ∧
    ((nextOf (exec (.dmaAbort 5#4 0x60330000#32) latchedAt)).map (·.dma.opts)) = some 0x20330000#32 := by decide

theorem test_pause : ((nextOf (exec (.dmaPause 5#4 0#32) (loadedWith d0 .loaded 0xDE000040#32))).map (·.dma)) =
    some { (loadedWith d0 .loaded 0xDE000040#32).dma with active := false } := by decide

theorem test_reset : ((nextOf (exec (.dmaReset 5#4 0x80000000#32) (loadedWith d0 .loaded 0xDE000040#32))).map
    (fun t => (t.dma.conblkAd, t.dma.ti, t.dma.active, t.dma.phase, t.dma.nextconbk))) =
    some (0#32, 0#32, false, .idle, 0#32) ∧
    ((nextOf (exec (.dmaReset 5#4 0x80000000#32) latchedAt)).map (·.dma.latch)) = some 0#32 := by decide

/-- The reads of the working registers of 95 V7 (descriptor 1 executed). -/
def after1 : State := loadedWith { d1 with len := 0#32 } .needLoad 0xDE000040#32

theorem test_working_reads : ((nextOf (exec (.dmaRdsrc 5#4) after1)).map (·.host.result)) =
      some (.word 0xDE000240#32) ∧
    ((nextOf (exec (.dmaRddst 5#4) after1)).map (·.host.result)) = some (.word 0x7E203004#32) ∧
    ((nextOf (exec (.dmaRdlen 5#4) after1)).map (·.host.result)) = some (.word 0#32) ∧
    ((nextOf (exec (.dmaRdnext 5#4) after1)).map (·.host.result)) = some (.word 0xDE000040#32) := by decide

theorem test_more_reads : ((nextOf (exec (.dmaRdti 5#4) after1)).map (·.host.result)) =
      some (.word 0x04020048#32) ∧
    ((nextOf (exec (.dmaRdstride 5#4) after1)).map (·.host.result)) = some (.word 0#32) ∧
    ((nextOf (exec (.dmaRdpos 5#4) after1)).map (·.host.result)) = some (.word 0xDE000040#32) := by decide

/-- `CS` in its defined bits: ACTIVE, END, DREQ, ERROR (10 R15), the any-value bits filled with 0. -/
theorem test_rdcs : State.dmaCsWord
    { withFifos (loadedWith d0 .loaded 0xDE000000#32) 0x201#32 0x401#32 [1#32] [] with
      dma := { (loadedWith d0 .loaded 0xDE000000#32).dma with endF := true, debugErr := 4#3 } } 0#32 =
    0x0000010B#32 := by decide

theorem test_debug : State.dmaDebugWord { base with dma := { base.dma with debugErr := 5#3 } } 0#32 = 5#32 ∧
    ((nextOf (exec (.dmaClrdbg 5#4 4#32) { base with dma := { base.dma with debugErr := 5#3 } })).map
      (·.dma.debugErr)) = some 1#3 ∧
    ((nextOf (exec (.dmaRddbg 5#4) base)).map (·.env.draws)) = some 1 := by decide

/-! ### PCM transactions and word events (95 V8) -/

/-- `base` with the error flags, for the table of 95 V8. -/
def v8 (cs : Word) (te re : Bool) (tx rx : Nat) : State :=
  { base with pcm := { base.pcm with
    csStored := cs, txErr := te, rxErr := re
    txfifo := List.replicate tx 0#32, rxfifo := List.replicate rx 0#32 } }

theorem test_rdcs_pcm : (v8 0x008002A7#32 false false 0 3).csAWord 0#32 = 0x00B802A7#32 ∧
    (v8 0x008002A7#32 true false 0 0).csAWord 0#32 = 0x00A882A7#32 ∧
    (v8 0x008002A7#32 false true 2 64).csAWord 0#32 = 0x00D902A7#32 ∧
    (v8 0x008002A7#32 false false 64 64).csAWord 0#32 = 0x00D002A7#32 ∧
    (v8 0x008002A1#32 false false 0 0).csAWord 0#32 = 0x00A802A1#32 := by decide

theorem test_wrcs : ((nextOf (exec (.pcmWrcs 0x008082A7#32) (v8 0x008002A7#32 true true 2 0))).map
      (fun t => (t.pcm.csStored, t.pcm.txErr, t.pcm.rxErr, t.pcm.txfifo))) =
      some (0x008002A7#32, false, true, [0#32, 0#32]) ∧
    ((nextOf (exec (.pcmWrcs 0x008182B9#32) (v8 0x008002A1#32 true false 2 1))).map
      (fun t => (t.pcm.csStored, t.pcm.txErr, t.pcm.rxfifo, t.pcm.txfifo))) =
      some (0x008002A1#32, false, [], []) := by decide

theorem test_wrcs_reserved : stopOf (exec (.pcmWrcs 0x00000400#32) base) = some .reservedBit ∧
    ((nextOf (exec (.pcmWrcs 1#32) (v8 0x008002A7#32 false false 0 0))).map (·.pcm.csStored)) =
      some 1#32 := by decide

theorem test_rdfifo : ((nextOf (exec .pcmRdfifo (withFifos base 1#32 0#32 [10#32, 11#32] []))).map
      (fun t => (t.host.result, t.pcm.rxfifo))) = some (.word 10#32, [11#32]) ∧
    stopOf (exec .pcmRdfifo (withFifos base 1#32 0#32 [] [])) = some .rxFifoEmpty ∧
    stopOf (exec .pcmRdfifo base) = some .pcmDisabled := by decide

theorem test_wrfifo : ((nextOf (exec (.pcmWrfifo 0#32) (withFifos base 1#32 0#32 [] [0#32]))).map
      (·.pcm.txfifo)) = some [0#32, 0#32] ∧
    stopOf (exec (.pcmWrfifo 0#32) { withFifos base 1#32 0#32 [] (List.replicate 4 0#32) with cfg := p4 }) =
      some .txFifoFull ∧
    stopOf (exec (.pcmWrfifo 0#32) base) = some .pcmDisabled := by decide

/-- `base` with the interface enabled. -/
def enabled : State := withFifos base 1#32 0#32 [] []

theorem test_mode : ((nextOf (exec (.pcmWrmode 0x00A0FC20#32) enabled)).map (·.pcm.modeA)) =
      some 0x00A0FC20#32 ∧
    stopOf (exec (.pcmWrmode 0x01A0FC20#32) enabled) = some .packedMode ∧
    ((nextOf (exec .pcmRdmode { enabled with pcm := { enabled.pcm with modeA := 7#32 } })).map
      (·.host.result)) = some (.word 7#32) := by decide

theorem test_rxc : ((nextOf (exec (.pcmWrrxc 0xC010C210#32) enabled)).map (·.pcm.rxcA)) =
      some 0xC010C210#32 ∧
    stopOf (exec (.pcmWrrxc 0x40080000#32) enabled) = some .channelWidth ∧
    ((nextOf (exec .pcmRdrxc { enabled with pcm := { enabled.pcm with rxcA := 7#32 } })).map
      (·.host.result)) = some (.word 7#32) := by decide

theorem test_txc : ((nextOf (exec (.pcmWrtxc 0xC010C210#32) enabled)).map (·.pcm.txcA)) =
      some 0xC010C210#32 ∧
    stopOf (exec (.pcmWrtxc 0x0000C008#32) enabled) = some .channelWidth ∧
    ((nextOf (exec .pcmRdtxc { enabled with pcm := { enabled.pcm with txcA := 7#32 } })).map
      (·.host.result)) = some (.word 7#32) := by decide

theorem test_dreq : ((nextOf (exec (.pcmWrdreq 0x10100401#32) enabled)).map (·.pcm.dreqA)) =
      some 0x10100401#32 ∧
    stopOf (exec (.pcmWrdreq 0x10100481#32) enabled) = some .reservedBit ∧
    ((nextOf (exec .pcmRddreq { enabled with pcm := { enabled.pcm with dreqA := 7#32 } })).map
      (·.host.result)) = some (.word 7#32) := by decide

theorem test_inten : ((nextOf (exec (.pcmWrinten 15#32) enabled)).map (·.pcm.intenA)) = some 15#32 ∧
    stopOf (exec (.pcmWrinten 0x10#32) enabled) = some .reservedBit ∧
    ((nextOf (exec .pcmRdinten { enabled with pcm := { enabled.pcm with intenA := 7#32 } })).map
      (·.host.result)) = some (.word 7#32) := by decide

theorem test_intstc : ((nextOf (exec .pcmRdintstc base)).map (·.env.draws)) = some 1 ∧
    ((nextOf (exec (.pcmWrintstc 15#32) base)).map (·.pcm)) = some base.pcm := by decide

theorem test_wrdreq_values : Machine.Cfg.dreqValue v1 = 0x10100401#32 ∧
    Machine.Cfg.dreqValue { v1 with txReqLevel := 32, rxReqLevel := 2 } = 0x10102002#32 := by decide

/-- The pacing lines of 95 V8. -/
theorem test_pacing : (withFifos base 0x201#32 0x401#32 [] [0#32, 0#32]).rxDreq = false ∧
    (withFifos base 0x201#32 0x401#32 [] [0#32, 0#32]).txDreq = true ∧
    (withFifos base 0x201#32 0x400#32 [1#32] []).rxDreq = true ∧
    (withFifos base 0x201#32 0x402#32 [1#32] []).rxDreq = false ∧
    (withFifos base 0x201#32 0x401#32 [] (List.replicate 4 0#32)).txDreq = false ∧
    (withFifos base 0x201#32 0x001#32 [] []).txDreq = false ∧
    (withFifos base 0x001#32 0x401#32 [1#32] []).rxDreq = false ∧
    (withFifos base 0x200#32 0x401#32 [1#32] []).rxDreq = false := by decide

/-- A running peripheral: both directions, both channels, the codec clocking. -/
def streaming (cs : Word) (rx tx : List Word) (rp tp : Slot) : State :=
  { base with
    cfg := p4
    pcm := { base.pcm with
      csStored := cs, rxcA := 0xC010C210#32, txcA := 0xC010C210#32, rxfifo := rx, txfifo := tx
      rxPos := rp, txPos := tp }
    env := { base.env with codecUp := true, codecClk := true } }

theorem test_rx_word : ((streaming 0x008002A7#32 [] [] ⟨0, 0⟩ ⟨0, 1⟩).rxWord 0x800000#24).pcm.rxfifo =
      [0xFF800000#32] ∧
    ((streaming 0x000002A7#32 [] [] ⟨0, 0⟩ ⟨0, 1⟩).rxWord 0x800000#24).pcm.rxfifo = [0x00800000#32] ∧
    ((streaming 0x008002A7#32 [1#32, 2#32, 3#32, 4#32] [] ⟨2, 0⟩ ⟨2, 1⟩).rxWord 5#24).pcm.rxErr = true ∧
    ((streaming 0x008002A7#32 [] [] ⟨0, 0⟩ ⟨0, 0⟩).rxWord 5#24).pcm.rxfifo = [] := by decide

theorem test_tx_word : (streaming 0x008002A7#32 [] [0x00FFFFDE#32] ⟨0, 0⟩ ⟨0, 0⟩).txWord.env.codecOut =
      [⟨⟨0, 0⟩, 0xFFFFDE#24⟩] ∧
    (streaming 0x008002A7#32 [] [0xFF800001#32] ⟨0, 0⟩ ⟨0, 1⟩).txWord.env.codecOut =
      [⟨⟨0, 1⟩, 0x800001#24⟩] ∧
    (streaming 0x008002A7#32 [] [] ⟨0, 0⟩ ⟨0, 0⟩).txWord.pcm.txErr = true ∧
    (streaming 0x008002A7#32 [] [1#32] ⟨0, 0⟩ ⟨2, 0⟩).txWord.pcm.txfifo = [1#32] := by decide

/-! ### GPIO (40 R125 to R130) -/

/-- The example of 40 R125: pin 18, code 0b100. -/
theorem test_setfn : ((nextOf (exec (.gpioSetfn 1 8 4#3) { base with gpio := { base.gpio with
      fsel := [0#32, 0xC7FFFFFF#32, 0#32, 0#32, 0#32, 0#32] } })).map (·.gpio.fsel)) =
    some [0#32, 0xC4FFFFFF#32, 0#32, 0#32, 0#32, 0#32] ∧
    stopOf (exec (.gpioSetfn 1 8 4#3) { base with cfg := { v1 with nbrPins := 18 } }) =
      some .noSuchPin := by decide

theorem test_set_clr : ((nextOf (exec (.gpioSet 0 0x00040000#32) base)).map (·.gpio.out)) =
      some 0x40000#64 ∧
    ((nextOf (exec (.gpioSet 1 1#32) base)).map (·.gpio.out)) = some 0x100000000#64 ∧
    ((nextOf (exec (.gpioClr 0 0x00040000#32) { base with gpio := { base.gpio with out := 0x1000C0000#64 } })).map
      (·.gpio.out)) = some 0x100080000#64 := by decide

/-- Pins 0 and 1 outputs, pin 2 not. -/
theorem test_level : State.levelWord { base with gpio := { base.gpio with
      fsel := [0x00000009#32, 0#32, 0#32, 0#32, 0#32, 0#32], out := 6#64 } } 0 0#32 = 2#32 ∧
    ((nextOf (exec (.gpioRead 0) base)).map (·.env.draws)) = some 1 := by decide

/-- `GPIO.READ 18` and `GPIO.READ 17` (40 R129), both outputs, 18 high; and no register for pin 64. -/
theorem test_level_pin :
    let s : State := { base with gpio := { base.gpio with
      fsel := [0#32, 0x09200000#32, 0#32, 0#32, 0#32, 0#32], out := 0x40000#64 } }
    (s.levelWord (pinBank 18) 0#32 >>> (18 % 32)) &&& 1#32 = 1#32 ∧
    (s.levelWord (pinBank 17) 0#32 >>> (17 % 32)) &&& 1#32 = 0#32 ∧
    ((nextOf (s.hostOpStep (.gpioLevel 18) [])).map (·.env.draws)) = some 1 ∧
    stopOf (s.runTurn (.pseudo (.gpioRead 64))) = some .noSuchPin := by decide

theorem test_pulls : ((nextOf (exec (.gpioPud 2#32) base)).map (·.gpio.pullCtl)) = some 2#32 ∧
    ((nextOf (exec (.gpioPudclk 0 0x00040000#32) { base with gpio := { base.gpio with pullCtl := 2#32 } })).map
      (fun t => (t.gpio.pull.getD 18 .none, t.gpio.pull.getD 17 .none))) = some (.up, .none) ∧
    ((nextOf (State.hostOpStep base (.gpioPull 63 .down) [])).map (·.gpio.pull.getD 63 .none)) = some .down ∧
    stopOf (State.runTurn base (.pseudo (.gpioPull 64 .down))) = some .noSuchPin := by decide

/-! ### The converter (95 V9) -/

theorem test_i2f : i2f 0#32 = 0#32 ∧ i2f 0x00123456#32 = 0x3E11A2B1#32 ∧ i2f 0x007FFFFF#32 = 0x3F800000#32 ∧
    i2f 0xFF800000#32 = 0xBF800001#32 ∧ i2f 0x01000001#32 = 0x40000001#32 ∧
    i2f 0x80000000#32 = 0xC3800001#32 := by decide

theorem test_f2i_rne : f2i .rne 0#32 0x3DCCCCCD#32 = 0x000CCCCD#32 ∧
    f2i .rne 0#32 0xBF000000#32 = 0xFFC00000#32 ∧ f2i .rne 0#32 0x7F800000#32 = 0x007FFFFF#32 ∧
    f2i .rne 0#32 0xBF7FFFFF#32 = 0xFF800002#32 ∧ f2i .rne 0#32 0x34A00001#32 = 2#32 ∧
    f2i .rne 0#32 0x00000001#32 = 0#32 ∧ f2i .rne 9#32 0x7FC00000#32 = 9#32 := by decide

theorem test_f2i_rtz : f2i .rtz 0#32 0x3DCCCCCD#32 = 0x000CCCCC#32 ∧
    f2i .rtz 0#32 0xBF000000#32 = 0xFFC00001#32 ∧ f2i .rtz 0#32 0x34000000#32 = 0#32 ∧
    f2i .rtz 0#32 0x80000000#32 = 0#32 ∧ f2i .rtz 0#32 0xC0000000#32 = 0xFF800001#32 := by decide

theorem test_cvt_v4 : ((nextOf (exec (.cvtI2fV4 1#32 0xFFFFFFFF#32 0x007FFFFF#32 0xFF800000#32) base)).map
      (·.host.result)) = some (.vec 0x34000001#32 0xB4000001#32 0x3F800000#32 0xBF800001#32) ∧
    ((nextOf (exec (.cvtF2iV4 0x3F000000#32 0xBF000000#32 0x40000000#32 0x80000000#32) base)).map
      (·.host.result)) = some (.vec 0x00400000#32 0xFFC00000#32 0x007FFFFF#32 0#32) := by decide

theorem test_cvt_scalar : ((nextOf (exec (.cvtI2f 2#32) base)).map (·.host.result)) =
      some (.word 0x34800001#32) ∧
    ((nextOf (exec (.cvtF2i 0x34C00002#32) base)).map (·.host.result)) = some (.word 3#32) := by decide

/-! ### HOST (95 V10, V11, V12) -/

/-- Step 6 with the figures of 95 V11. -/
theorem test_sleep : (State.sleepStep { State.reset with host := { State.reset.host with hwFrame := 37 } }
      []).host.slept = true ∧
    (State.sleepStep { State.reset with host := { State.reset.host with hwFrame := 62 } } []).host.slept =
      false := by decide

/-- GPIO.WRITE on pins 33 and 64, and the end of START. -/
theorem test_pseudo : ((nextOf (State.runTurn base (.pseudo (.gpioWrite 33 0)))).map (·.host.ops)) =
      some [.run (.gpioClr 1 2#32)] ∧
    stopOf (State.runTurn base (.pseudo (.gpioWrite 64 1))) = some .noSuchPin ∧
    (State.startDoneStep { base with host := { base.host with exitFlag := true, exitRequested := true } }
      []).host.exitRequested = false := by decide

/-- One word of `PIPE.IN 0` and of `PIPE.OUT 0` (95 V10): slot (1, 1). -/
theorem test_pipe : ((nextOf (State.pipeInStep { base with mem := Memory.writeWord [] 0xDE00020C 0xFF800000#32 }
      0 3 [])).map (fun t => t.host.stageIn.ch1.getD 1 0#32)) = some 0xBF800001#32 ∧
    ((nextOf (State.pipeOutStep { base with host := { base.host with
      stageOut := ⟨[0#32, 0#32], [0#32, 0x3F800001#32]⟩ } } 0 3 [])).map
      (fun t => Memory.readWord t.mem 0xDE00024C)) = some 0x007FFFFF#32 := by decide

theorem test_live_half : stopOf (State.runTurn (running .loaded 0xDE000000#32) (.memWrite 0xDE000200#32 1#32)) =
      some .liveHalfWrite ∧
    ((nextOf (State.runTurn (running .loaded 0xDE000100#32) (.memWrite 0xDE000200#32 1#32))).map
      (fun t => Memory.readWord t.mem 0xDE000200)) = some 1#32 ∧
    stopOf (State.runTurn (running .loaded 0xDE000100#32) (.memWrite 0xDE000000#32 1#32)) =
      some .descriptorWrite ∧
    ((nextOf (State.runTurn (running .loaded 0xDE000000#32) (.memRead 0xDE000200#32))).map
      (·.host.race)) = some true := by decide

theorem test_lifecycle_refused : stopOf (State.runTurn base (.call .start)) = some .lifecycle ∧
    stopOf (State.runTurn base (.call .stop)) = some .lifecycle ∧
    ((nextOf (State.runTurn base (.call (.init .ok 0 0)))).map (fun t => (t.host.inited, t.env.draws))) =
      some (true, 1) ∧
    ((nextOf (State.runTurn base (.call (.init .ok 1 0)))).map (fun t => (t.host.inited, t.host.lastError))) =
      some (false, .configChannels) := by decide

/-- `get_last_error` after a failed first `init` only (92 D49), and after an `init` that failed once an
earlier one had succeeded (44 R237). -/
theorem test_last_error :
    let failed (s : State) : State := (nextOf (s.runTurn (.call (.init .cannotLock 0 0)))).getD s
    let ready : State := (nextOf (base.runTurn (.call (.init .ok 0 0)))).getD base
    stopOf ((failed base).runTurn (.call .getLastError)) = some .lifecycle ∧
    ((nextOf ((failed ready).runTurn (.call .getLastError))).map (·.host.result)) =
      some (.diag .cannotLock) ∧
    stopOf ((failed ready).runTurn (.call .start)) = some .lifecycle := by decide

/-- 70 R342: no clock before START has brought the codec up, none again once a START has reset it. -/
theorem test_codec_clock : ((nextOf (State.runTurn base (.codecClock true))).map (·.env.codecClk)) = some false ∧
    ((nextOf (State.runTurn { withOps base [.codecReset] with
      env := { base.env with codecUp := true, codecClk := true } } .host)).map
      (fun t => (t.env.codecUp, t.env.codecClk))) = some (false, false) := by decide

/-- A transaction of a HOST sequence outside its window (40 R122), and a descriptor address in the Sample
Region (20 R68, 92 D13). -/
theorem test_window_and_slot :
    stopOf (State.hostTurn (withOps { base with cfg := { v1 with winPcm := 4 } } [.run (.pcmWrfifo 0#32)])) =
      some (.badEncoding .outOfWindow) ∧
    stopOf (State.hostTurn (withOps { base with cfg := { v1 with winDma := 0x504 } } [.busyPoll])) =
      some (.badEncoding .outOfWindow) ∧
    ((nextOf (State.dmaTurn { running .needLoad 0xDE000200#32 with cfg := { v1 with descSlotsOnly := true } })).map
      (fun t => (t.dmaFault, t.dma.debugErr))) = some (some .dmaBadDescriptorAddress, 4#3) := by decide

/-- The same address where the block alone is asked (20 R71, 42 R163): the words there are loaded. -/
theorem test_load_sample_region : ((nextOf (State.dmaTurn { running .needLoad 0xDE000260#32 with
      cfg := { v1 with descSlotsOnly := false }
      mem := Memory.writeDesc [] 0xDE000260 d0 })).map (fun t => (t.dmaFault, t.dma.destAd, t.dma.phase))) =
    some (none, 0xDE000200#32, .loaded) := by decide

/-- A step whose beat meets the bus fault of 42 R169, the loaded address having left the block. -/
theorem test_bus_fault_step : ((nextOf (step { loadedWith { d0 with dst := 0xDE000280#32 } .latched 0xDE000000#32 with
      env := { base.env with sched := [.dma] } })).map (fun t => (t.dmaFault, t.dma.debugErr))) =
    some (some .dmaBusError, 4#3) := by decide


/-! ### Witnesses: for every statement with hypotheses a state and operands that meet them, each clause at a
boundary of its range -/

/-- A whole word as data. -/
def full : Word := 0xFFFFFFFF#32

/-- `DecodeUndoesEncode`, and with it every family's operands at their ends. -/
theorem witness_DecodeUndoesEncode : v1.windowsHold = true ∧
    (∀ i ∈ [Instr.xferRx d0, .xferTx d1, .xferOther { d0 with next := full, len := 8#32 }, .dmaRdcs 15#4,
      .dmaReset 15#4 full, .dmaAbort 0#4 0x7FFFFFFF#32, .dmaGo 15#4 0x3FFFFFFF#32, .dmaPause 15#4 0x3FFFFFFE#32,
      .pcmWrintstc full, .gpioSetfn 5 9 7#3, .gpioPudclk 1 full, .cvtF2iV4 full full full full],
      WellFormed v1 i = true) := by decide

theorem witness_ListedTupleReencodes :
    decode v1 (.reg 0x1250080000000#49) = .ok (.dmaReset 5#4 0x80000000#32) ∧
    (regFields 0x1250080000000#49).kind ≠ 0#2 ∧
    decode v1 (.reg 0x0801C00000000#49) = .ok .pcmRdintstc ∧ (regFields 0x0801C00000000#49).data = 0#32 := by decide

theorem witness_IllegalOffsetRefused : (regFields 0x0800100000000#49).off.toNat % 4 ≠ 0 ∧
    (regFields 0x0800300000000#49).off.toNat % 4 ≠ 0 ∧
    base.cfg.winSize (regFields 0x0900000000000#49).win = (regFields 0x0900000000000#49).off.toNat ∧
    encode (.pcmWrfifo 0#32) = .reg 0x0A00400000000#49 ∧
    Cfg.winSize { v1 with winPcm := 4 } (regFields 0x0A00400000000#49).win =
      (regFields 0x0A00400000000#49).off.toNat ∧
    encode (.pcmWrcs ((base.pcm.csStored &&& ~~~0#32) ||| 6#32)) = .reg 0x0A00000000006#49 ∧
    Cfg.winSize { v1 with winPcm := 0 } (regFields 0x0A00000000006#49).win =
      (regFields 0x0A00000000006#49).off.toNat := by decide

theorem witness_SlotsAreBufferWords : Cfg.wf { v1 with blockSize := 1 } = true ∧
    v1.wf = true ∧ v1.isSlot v1.smpBus = true ∧ v1.isSlot (v1.smpBus + v1.regionBytes) = false ∧
    v1.isSlot (v1.smpBus + v1.regionBytes - 4) = true := by decide

theorem witness_BuilderDescriptorContents : (0 : Nat) < 2 ∧ (0 : Nat) < v1.blockSize ∧
    (1 : Nat) < 2 ∧ 1 < v1.blockSize ∧ ((1 * v1.blockSize + 1) * 2 + 1) * 2 + 1 = v1.nDesc - 1 := by decide

theorem witness_ChainBuildWritesEveryDescriptor :
    let s := withOps base [.chainBuild 0, .chainBases]
    s.cfg.wf = true ∧ Memory.wf s.mem = true ∧ s.dma.active = false ∧ s.host.loopFault = none ∧
    s.host.ops = .chainBuild 0 :: .chainBases :: [] ∧ v1.inDescArea (v1.descBus + 32 * v1.nDesc) = false ∧
    v1.inDescArea (v1.descBus + 32 * v1.nDesc - 1) = true := by decide

theorem witness_ChainIsOneCycle : v1.wf = true ∧ 0 < v1.nDesc ∧ 15 < v1.nDesc ∧ v1.nDesc = 16 := by decide

/-- The first and the last descriptor, one of each kind. -/
theorem witness_ChainStaysInItsHalf : v1.wf = true ∧ 0 < v1.nDesc ∧ 15 < v1.nDesc ∧ 0 % 2 = 0 ∧ 15 % 2 = 1 := by decide

theorem witness_PositionRoundTrip : (0 : Nat) < v1.blockSize ∧ 1 < v1.blockSize ∧ (0 : Nat) < 2 ∧ (1 : Nat) < 2 ∧
    v1.descAddr (v1.descIdx 1 1 1 1) = 0xDE0001E0 := by decide

theorem witness_BufferHalvesDisjoint : v1.inHalf 0 (v1.inBase 0) = true ∧
    v1.inHalf 0 (v1.outBase 0 + v1.bufBytes - 1) = true ∧ v1.inHalf 1 (v1.inBase 1) = true ∧
    v1.inHalf 1 (v1.outBase 1 + v1.bufBytes - 1) = true := by decide

theorem witness_LoadFillsWorkingRegisters : (running .needLoad 0xDE000000#32).dma.active = true ∧
    (running .needLoad 0xDE000000#32).dmaFault = none ∧
    (running .needLoad 0xDE000000#32).dma.phase = .needLoad := by decide

/-- Loaded without and with a request, latched with the first and with the last word of the block. -/
theorem witness_XferRxBeats :
    let a := withFifos (loadedWith d0 .loaded 0xDE000000#32) 0x201#32 0x401#32 [] []
    let b := withFifos (loadedWith d0 .loaded 0xDE000000#32) 0x201#32 0x401#32 [full] []
    let c (x : Word) := loadedWith { d0 with dst := x } .latched 0xDE000000#32
    (a.dma.active = true ∧ a.dmaFault = none ∧ Memory.wf a.mem = true ∧ a.dma.phase = .loaded ∧
      a.rxDreq = false) ∧
    (b.dma.active = true ∧ b.dmaFault = none ∧ Memory.wf b.mem = true ∧ b.dma.phase = .loaded ∧
      b.rxDreq = true ∧ b.dma.sourceAd = b.cfg.pcmFifoBus) ∧
    ∀ x ∈ [0xDE000000#32, 0xDE00027C#32], (c x).dma.active = true ∧ (c x).dmaFault = none ∧
      Memory.wf (c x).mem = true ∧ (c x).dma.phase = .latched ∧ (c x).dma.destAd ≠ (c x).cfg.pcmFifoBus ∧
      (c x).dma.destAd.toNat % 4 = 0 ∧ (c x).cfg.inBlock (c x).dma.destAd.toNat 4 = true := by
  simp only [List.forall_mem_cons, List.not_mem_nil, false_implies, implies_true, and_true]
  and_intros <;> decide

theorem witness_XferTxBeats :
    let a := withFifos (loadedWith d1 .loaded 0xDE000020#32) 0x201#32 0x100#32 [] [full]
    let b (x : Word) := withFifos (loadedWith { d1 with src := x } .loaded 0xDE000020#32) 0x201#32 0x200#32 [] [full]
    let c := withFifos (loadedWith d1 .latched 0xDE000020#32) 0x201#32 0x200#32 [] (List.replicate 63 full)
    (a.dma.active = true ∧ a.dmaFault = none ∧ a.dma.phase = .loaded ∧ a.txDreq = false) ∧
    (∀ x ∈ [0xDE000000#32, 0xDE00027C#32], (b x).dma.active = true ∧ (b x).dmaFault = none ∧
      (b x).dma.phase = .loaded ∧ (b x).txDreq = true ∧ (b x).dma.sourceAd ≠ (b x).cfg.pcmFifoBus ∧
      (b x).dma.sourceAd.toNat % 4 = 0 ∧ (b x).cfg.inBlock (b x).dma.sourceAd.toNat 4 = true) ∧
    (c.dma.active = true ∧ c.dmaFault = none ∧ c.dma.phase = .latched ∧ c.dma.destAd = c.cfg.pcmFifoBus ∧
      c.pcm.txfifo.length + 1 = c.cfg.fifoDepth) := by
  simp only [List.forall_mem_cons, List.not_mem_nil, false_implies, implies_true, and_true]
  and_intros <;> decide

/-- Address 0; a misaligned one; one 32 bytes before the block, one with its end past it; the first word
of the Sample Region, and the last slot, which is none of them. -/
theorem witness_BadDescriptorAddressStopsEngine :
    Cfg.descSlotsOnly { v1 with descSlotsOnly := true } = true ∧
    (∀ i < v1.nDesc, (0xDE000200#32).toNat ≠ v1.descAddr i) ∧ v1.inBlock (0xDE000200#32).toNat 32 = true ∧
    v1.descAddr 15 = (0xDE0001E0#32).toNat ∧ 15 < v1.nDesc ∧
    (∀ a ∈ [0#32, 0xDE000010#32, 0xDDFFFFE0#32, 0xDE000280#32, 0xDE000200#32],
      (running .needLoad a).dma.active = true ∧ (running .needLoad a).dmaFault = none ∧
      (running .needLoad a).dma.phase = .needLoad) ∧
    (0xDE000010#32).toNat % 32 ≠ 0 ∧ v1.inBlock (0xDDFFFFE0#32).toNat 32 = false ∧
    v1.inBlock (0xDE000280#32).toNat 32 = false ∧ v1.inBlock (0xDE000260#32).toNat 32 = true := by
  refine ⟨rfl, fun i hi => ?_, ?_⟩
  · have : v1.nDesc = 16 := rfl
    have : v1.descAddr i = 0xDE000000 + 32 * i := rfl
    have : (0xDE000200#32).toNat = 0xDE000200 := rfl
    omega
  simp only [List.forall_mem_cons, List.not_mem_nil, false_implies, implies_true, and_true]
  and_intros <;> decide

theorem witness_BeatBusFaultStopsEngine :
    ∀ x ∈ [0xDE000202#32, 0xDDFFFFFC#32, 0xDE000280#32, 0#32],
      let r := loadedWith { d0 with dst := x } .latched 0xDE000000#32
      let t := withFifos (loadedWith { d1 with src := x } .loaded 0xDE000020#32) 0x201#32 0x400#32 [] []
      (r.dma.active = true ∧ r.dmaFault = none ∧ x ≠ r.cfg.pcmFifoBus ∧
        (x.toNat % 4 ≠ 0 ∨ r.cfg.inBlock x.toNat 4 = false) ∧ r.dma.phase = .latched ∧ r.dma.destAd = x ∧
        r.dma.ti &&& 0x001F0FF3#32 = 0x00030400#32) ∧
      (t.dma.active = true ∧ t.dmaFault = none ∧ t.dma.phase = .loaded ∧ t.txDreq = true ∧
        t.dma.sourceAd = x ∧ t.dma.ti &&& 0x001F0FF3#32 = 0x00020040#32) := by
  simp only [List.forall_mem_cons, List.not_mem_nil, false_implies, implies_true, and_true]
  and_intros <;> decide

/-- A descriptor of length 8 in memory, in the last descriptor slot, with either value of the parameter, and
in the last place of the block. -/
theorem witness_OtherDescriptorRefused : ∀ b ∈ [true, false],
    let s : State := { running .needLoad 0xDE0001E0#32 with
      cfg := { v1 with descSlotsOnly := b }
      mem := Memory.writeDesc [] 0xDE0001E0 { d0 with len := 8#32 } }
    s.dma.active = true ∧ s.dmaFault = none ∧ s.dma.phase = .needLoad ∧ s.dma.conblkAd ≠ 0#32 ∧
    s.dma.conblkAd.toNat % 32 = 0 ∧ s.dma.conblkAd.toNat = s.cfg.descAddr 15 ∧ 15 < s.cfg.nDesc ∧
    s.cfg.inBlock s.dma.conblkAd.toNat 32 = true ∧ s.cfg.inBlock (0xDE000260#32).toNat 32 = true ∧
    s.fetchDesc.isRx s.cfg = false ∧ s.fetchDesc.isTx s.cfg = false := by decide

/-- Levels at and one below each threshold, and `DREQ_A.TX = 0`. -/
theorem witness_PacingSignalLevels :
    (withFifos base 0x201#32 0x402#32 [1#32, 2#32] []).rxDreq = true ∧
    (withFifos base 0x201#32 0x402#32 [1#32] []).rxDreq = false ∧
    (withFifos base 0x201#32 0x200#32 [] [0#32]).txDreq = true ∧
    (withFifos base 0x201#32 0x200#32 [] [0#32, 0#32]).txDreq = false ∧
    (withFifos base 0x201#32 0x001#32 [] []).pcm.dreqA.extractLsb' 8 7 = 0#7 := by decide

theorem witness_EngineStepsOnlyWhileActive : base.dma.active = false ∧
    ({ running .needLoad 0#32 with dmaFault := some .dmaBusError } : State).dmaFault ≠ none := by decide

/-- A step of the running engine, and of HOST while it runs. -/
theorem witness_PositionMovesOnlyAlongNext :
    ∀ t ∈ [Turn.dma, .reg 0x1250080000000#49, .reg 0x1250040000000#49],
      let s : State := { loadedWith d0 .latched 0xDE000000#32 with env := { base.env with sched := [t] } }
      (nextOf (step s)).isSome = true ∧ s.dma.active = true := by decide

theorem witness_SetcbSetsPosition : base.dma.active = false ∧ (running .loaded 0#32).dma.active = true := by decide

/-- The words without a reserved bit of DMA `CS`, and every reserved bit by itself. -/
theorem witness_dma_cs_words : (∀ v ∈ [0#32, 0x40000001#32, 0xF0FF017F#32], v &&& 0x0F00FE80#32 = 0#32) ∧
    ∀ i ∈ [7, 9, 10, 11, 12, 13, 14, 15, 24, 25, 26, 27], (1#32 <<< i) &&& 0x0F00FE80#32 ≠ 0#32 := by
  simp only [List.forall_mem_cons, List.not_mem_nil, false_implies, implies_true, and_true]
  and_intros <;> decide

/-- `GoStartsChannel`, `PauseKeepsPlace` and `ResetClearsChannel` need only such a word. -/
theorem witness_GoPauseReset : (0x30FF0007#32 : Word) &&& 0x0F00FE80#32 = 0#32 := by decide

theorem witness_AbortMovesToSuccessor :
    latchedAt.dma.phase = .latched ∧ (running .loaded 0#32).dma.phase = .loaded ∧ base.dma.phase = .idle ∧
    (running .needLoad 0#32).dma.phase = .needLoad ∧ (0x40000001#32 : Word) &&& 0x0F00FE80#32 = 0#32 := by decide

theorem witness_ChannelWriteRefusals : (5#4 : BitVec 4) = base.cfg.dmaChannel ∧
    (0x00000080#32 : Word) &&& 0x0F00FE80#32 ≠ 0#32 ∧ (0x08000000#32 : Word) &&& 0x0F00FE80#32 ≠ 0#32 ∧
    (4#4 : BitVec 4) ≠ base.cfg.dmaChannel := by decide

theorem witness_ChannelRegisterReads : 0x08#8 ∈ [0x08#8, 0x0C#8, 0x10#8, 0x14#8, 0x18#8, 0x1C#8] ∧
    0x1C#8 ∈ [0x08#8, 0x0C#8, 0x10#8, 0x14#8, 0x18#8, 0x1C#8] := by decide

theorem witness_ChannelStatusRead :
    let r := loadedWith d0 .loaded 0xDE000000#32
    let t := loadedWith d1 .latched 0xDE000020#32
    (base.dma.inv = true) ∧ (r.dma.inv = true ∧ r.dma.phase = .loaded ∧ r.loadedDesc.isRx r.cfg = true) ∧
    (t.dma.inv = true ∧ t.dma.phase = .latched ∧ t.loadedDesc.isTx t.cfg = true) := by decide

theorem witness_DebugReadAndClear :
    ({ base with dma := { base.dma with debugErr := 4#3 } } : State).dma.inv = true := by decide

/-- Queues empty, and both full. -/
theorem witness_PcmStatusRead : base.pcm.inv base.cfg = true ∧
    (v8 0x02800000#32 true true 64 64).pcm.inv v1 = true := by decide

/-- Words without reserved bits, the reserved bits at their ends, directions that do not start. -/
theorem witness_PcmStatusWrite : (0x03FFE3FF#32 : Word) &&& 0xFC001C00#32 = 0#32 ∧
    (0x00000400#32 : Word) &&& 0xFC001C00#32 ≠ 0#32 ∧ (0x80000000#32 : Word) &&& 0xFC001C00#32 ≠ 0#32 ∧
    ¬((1#32 : Word).getLsbD 0 = true ∧ (1#32 : Word).getLsbD 1 = true) ∧
    ¬((1#32 : Word).getLsbD 0 = true ∧ (1#32 : Word).getLsbD 2 = true) ∧
    (v8 7#32 false false 0 0).pcm.rxRuns = true ∧ (v8 7#32 false false 0 0).pcm.txRuns = true := by decide

theorem witness_FifoPortPopsAndPushes : base.pcm.csStored.getLsbD 0 = false ∧
    (v8 1#32 false false 64 1).pcm.csStored.getLsbD 0 = true ∧
    (v8 1#32 false false 64 1).pcm.rxfifo = 0#32 :: [] ∧ (v8 1#32 false false 63 0).pcm.rxfifo = [] ∧
    (v8 1#32 false false 63 0).pcm.txfifo.length < v1.fifoDepth ∧
    v1.fifoDepth ≤ (v8 1#32 false false 64 1).pcm.txfifo.length := by decide

/-- Words each configuration register takes, with `EN = 1`. -/
theorem witness_PcmConfigurationStored : enabled.pcm.csStored.getLsbD 0 = true ∧
    (0x18FFFFFF#32 : Word) &&& 0xE7000000#32 = 0#32 ∧
    (∀ v ∈ [0#32, 0xC010C210#32, 0xC000C000#32],
      (BitVec.getLsbD v 30 = true → BitVec.getLsbD v 31 = true ∧ v.extractLsb' 16 4 = 0#4) ∧
      (BitVec.getLsbD v 14 = true → BitVec.getLsbD v 15 = true ∧ v.extractLsb' 0 4 = 0#4)) ∧
    (0x7F7F7F7F#32 : Word) &&& 0x80808080#32 = 0#32 ∧ (0x0000000F#32 : Word) &&& 0xFFFFFFF0#32 = 0#32 := by
  simp only [List.forall_mem_cons, List.not_mem_nil, false_implies, implies_true, and_true]
  and_intros <;> decide

/-- Words each refuses: every mode and reserved bit of `MODE_A`, each channel's width, the reserved bits
of `DREQ_A`, bit 4 of `INTEN_A`. -/
theorem witness_PcmConfigurationRefused : enabled.pcm.csStored.getLsbD 0 = true ∧
    base.pcm.csStored.getLsbD 0 = false ∧
    (∀ i ∈ [24, 25, 26, 29, 30, 31], (1#32 <<< i) &&& 0xE7000000#32 ≠ 0#32) ∧
    ((0x40000000#32 : Word).getLsbD 30 = true ∧ (0x40000000#32 : Word).getLsbD 31 = false) ∧
    ((0x0000C008#32 : Word).getLsbD 14 = true ∧ (0x0000C008#32 : Word).extractLsb' 0 4 ≠ 0#4) ∧
    (∀ i ∈ [7, 15, 23, 31], (1#32 <<< i) &&& 0x80808080#32 ≠ 0#32) ∧
    (0x00000010#32 : Word) &&& 0xFFFFFFF0#32 ≠ 0#32 := by
  simp only [List.forall_mem_cons, List.not_mem_nil, false_implies, implies_true, and_true]
  and_intros <;> decide

/-- One place left in the queue, and none. -/
theorem witness_ReceiveWordEvent :
    let a := streaming 0x008002A7#32 [1#32, 2#32, 3#32] [] ⟨0, 0⟩ ⟨0, 1⟩
    let b := streaming 0x008002A7#32 [1#32, 2#32, 3#32, 4#32] [] ⟨0, 0⟩ ⟨0, 1⟩
    a.rxEvent = some ⟨0, 0⟩ ∧ a.pcm.rxfifo.length < a.cfg.fifoDepth ∧
    b.rxEvent = some ⟨0, 0⟩ ∧ b.cfg.fifoDepth ≤ b.pcm.rxfifo.length := by decide

theorem witness_TransmitWordEvent :
    let a := streaming 0x008002A7#32 [] [7#32] ⟨0, 0⟩ ⟨0, 0⟩
    let b := streaming 0x008002A7#32 [] [] ⟨0, 0⟩ ⟨0, 0⟩
    a.txEvent = some ⟨0, 0⟩ ∧ a.pcm.txfifo = 7#32 :: [] ∧ b.txEvent = some ⟨0, 0⟩ ∧ b.pcm.txfifo = [] := by decide

/-- Both events at their limits: `RX(0,0)` just after `TX(0,0)`, `TX(2,0)` just after `RX(0,0)`; and with
only channel 2 enabled, so that a slot is skipped. -/
theorem witness_WordEventOrder :
    let a := streaming 0x008002A7#32 [] [] ⟨0, 0⟩ ⟨0, 1⟩
    let b := streaming 0x008002A7#32 [] [] ⟨0, 1⟩ ⟨2, 0⟩
    let c : State := { a with pcm := { a.pcm with rxcA := 0x0000C210#32, txcA := 0x0000C210#32, txPos := ⟨1, 0⟩ } }
    (a.rxEvent = some ⟨0, 0⟩ ∧ a.pcm.txRuns = true ∧ chanEn a.pcm.txcA 0 = true) ∧
    (b.txEvent = some ⟨2, 0⟩ ∧ b.pcm.rxRuns = true ∧ chanEn b.pcm.rxcA 0 = true) ∧
    (c.rxEvent = some ⟨0, 1⟩ ∧ Slot.before ⟨0, 0⟩ c.pcm.rxPos = false ∧ Slot.before ⟨0, 0⟩ ⟨0, 1⟩ = true) ∧
    (c.txEvent = some ⟨1, 1⟩ ∧ Slot.before ⟨1, 0⟩ c.pcm.txPos = false ∧ Slot.before ⟨1, 0⟩ ⟨1, 1⟩ = true) := by decide

/-- Pin 59, which the SoC has with 60 pins and lacks with 59. -/
theorem witness_SetfnWritesOneField : 10 * (5 : Fin 6).val + (9 : Fin 10).val < base.cfg.nbrPins ∧
    base.gpio.fsel.length = 6 ∧
    Cfg.nbrPins { v1 with nbrPins := 59 } ≤ 10 * (5 : Fin 6).val + (9 : Fin 10).val := by decide

/-- Pins 0 and 59 outputs. -/
theorem witness_LevelReadShowsOutputs :
    let s : State := { base with gpio := { base.gpio with fsel := [1#32, 0#32, 0#32, 0#32, 0#32, 0x08000000#32] } }
    32 * 1 + 27 < s.cfg.nbrPins ∧ 59 < s.cfg.nbrPins ∧ 0x34 + 4 * (63 / 32) < s.cfg.winGpio ∧
    Cfg.winGpio { v1 with winGpio := 0x38 } ≤ 0x34 + 4 * (32 / 32) ∧
    (s.gpio.fsel.getD (0 / 10) 0#32).extractLsb' (3 * (0 % 10)) 3 = s.cfg.gpioOutFn ∧
    (s.gpio.fsel.getD (59 / 10) 0#32).extractLsb' (3 * (59 % 10)) 3 = s.cfg.gpioOutFn := by decide

/-- The last pin of the second bank; a window that ends just before that bank's pull-clock register. -/
theorem witness_PullProgramming : (63 : Nat) < 64 ∧ 0x98 + 4 * (63 / 32) < base.cfg.winGpio ∧
    Cfg.winGpio { v1 with winGpio := 0x9C } ≤ 0x98 + 4 * (63 / 32) ∧
    0x98 + 4 * (31 / 32) < Cfg.winGpio { v1 with winGpio := 0x9C } ∧ base.gpio.pullCtl = 0#32 ∧
    ({ base.gpio with pullCtl := 1#32 } : GpioState).pullCtl = 1#32 ∧
    ({ base.gpio with pullCtl := 2#32 } : GpioState).pullCtl = 2#32 := by decide

/-- Zero, the greatest finite pattern and an infinity are no NaN. -/
theorem witness_ConverterOperationResults : f32IsNaN 0#32 = false ∧ f32IsNaN 0x7F7FFFFF#32 = false ∧
    f32IsNaN 0xFF800000#32 = false ∧ f32IsNaN 0x7F800001#32 = true := by decide

theorem witness_ConverterRoundTrip : (0x800001#24 : BitVec 24) ≠ 0x800000#24 ∧ (0x7FFFFF#24 : BitVec 24) ≠ 0x800000#24 := by decide

/-- `±1.0` themselves and the infinities. -/
theorem witness_FloatToIntStaysInRange :
    (∀ f ∈ [0x3F800000#32, 0x7F800000#32], f32IsNaN f = false ∧ BitVec.getLsbD f 31 = false ∧ 0x3F800000 ≤ BitVec.toNat f) ∧
    (∀ f ∈ [0xBF800000#32, 0xFF800000#32], f32IsNaN f = false ∧ BitVec.getLsbD f 31 = true ∧ 0xBF800000 ≤ BitVec.toNat f) := by
  simp only [List.forall_mem_cons, List.not_mem_nil, false_implies, implies_true, and_true]
  and_intros <;> decide

/-- Half the smallest value, a tie between 0 and it, and `2^24 + 1`, a tie among normal values. -/
theorem witness_RoundingIsNearest : f32IsFinite (f32Round false 1 (-150)) = true ∧
    f32Round false 1 (-150) = 0#32 ∧ f32Round false 16777217 0 = 0x4B800000#32 ∧
    f32Round false 16777219 0 = 0x4B800002#32 ∧
    f32IsFinite (f32Round true 16777217 0) = true ∧ f32IsFinite 0#32 = true ∧ f32IsFinite 0x7F7FFFFF#32 = true := by decide

/-- A misaligned address, the ends of the block, the live half, the descriptor area while the engine
runs, and the half that is not live. -/
theorem witness_HostMemoryAccess :
    let s := running .loaded 0xDE000000#32
    Memory.wf s.mem = true ∧ (0xDE000201#32).toNat % 4 ≠ 0 ∧ s.cfg.inBlock (0xDE000280#32).toNat 4 = false ∧
    s.cfg.inBlock (0xDDFFFFFC#32).toNat 4 = false ∧ s.cfg.inBlock (0xDE00027C#32).toNat 4 = true ∧
    (s.dma.active = true ∧ decodePosition s.cfg (s.cfg.descBase 0) (s.cfg.descBase 1) s.dma.conblkAd.toNat =
      some ⟨0, 0, 0, 0⟩ ∧ s.cfg.inHalf 0 (0xDE000200#32).toNat = true ∧
      s.cfg.inHalf 0 (0xDE00027C#32).toNat = false) ∧
    s.cfg.inDescArea (0xDE0001FC#32).toNat = true ∧ base.dma.active = false ∧
    (0xDE000200#32 : Word) ≠ s.cfg.pcmFifoBus := by decide

/-- Positions in the other buffer, in `cur_buf`, and undecodable; the register inside its window, and just
outside. -/
theorem witness_LoopFollowsPosition :
    let s (op : HostOp) (a : Word) : State :=
      { running .loaded a with host := { base.host with
        ops := [op], descBase0 := 0xDE000000#32, descBase1 := 0xDE000100#32 } }
    (∀ (op : HostOp) (a : Word), (s op a).host.loopFault = none ∧ (s op a).host.ops = op :: []) ∧
    (s .busyPoll 0xDE000100#32).hostPosition = some ⟨1, 0, 0, 0⟩ ∧
    (s .busyPoll 0xDE0000E0#32).hostPosition = some ⟨0, 1, 1, 1⟩ ∧ (s .busyPoll 0xDE000100#32).host.curBuf = 0 ∧
    (s .busyPoll 0xDE000200#32).hostPosition = none ∧
    256 * v1.dmaChannel.toNat + 4 < v1.winDma ∧
    ¬256 * (5#4).toNat + 4 < Cfg.winDma { v1 with winDma := 0x504 } := by
  refine ⟨fun _ _ => ⟨rfl, rfl⟩, ?_⟩
  decide

theorem witness_OneDropoutPerIteration :
    let s := withOps (v8 0x008002A7#32 true true 2 0) [.readStatus, .clearErrors, .adopt, .notify]
    s.pcm.inv s.cfg = true ∧ s.host.loopFault = none ∧
    s.host.ops = .readStatus :: .clearErrors :: .adopt :: .notify :: [] ∧ 0 < s.cfg.winPcm ∧
    Cfg.winPcm { v1 with winPcm := 0 } = 0 := by decide

theorem witness_LifecycleSequences :
    let h := base.host
    let s (x : HostState) : State := { base with host := x }
    (h.tstate = .stopped ∧ h.ops = [] ∧ h.inited = false) ∧ (s { h with inited := true }).host.inited = true ∧
    (s { h with tstate := .running, inited := true }).host.exitFlag = false ∧
    (s { h with ops := [.loopHead] }).host.ops = .loopHead :: [] ∧ h.loopFault = none ∧ h.exitFlag = false ∧
    (s { h with ops := [.loopHead], exitFlag := true }).host.exitFlag = true := by decide

/-- `INIT` in Stopped and Running, with the configuration of 95 V1 and with a block inside the PCM window;
`GET_LAST_ERROR` before and after a successful one. -/
theorem witness_InitReportsOutcome :
    let h := base.host
    (h.tstate = .stopped ∧ h.ops = [] ∧ h.everInited = false ∧ h.exitFlag = false) ∧
    v1.wf = true ∧ 0 + 2 ≤ 2 ∧ ¬1 + 2 ≤ 2 ∧ Cfg.wf { v1 with blockBus := 0x7E203020#32 } = false ∧
    ({ h with tstate := .running } : HostState).exitFlag = false ∧
    ({ h with everInited := true } : HostState).everInited = true := by decide

theorem witness_CodecClockOnlyAfterBringUp :
    (withOps base [.codecReset, .codecBringUp]).host.ops = .codecReset :: [.codecBringUp] ∧
    (withOps base [.codecBringUp]).host.ops = .codecBringUp :: [] ∧ base.host.loopFault = none ∧
    (let s : State := { withOps base [.codecBringUp] with env := { base.env with sched := [.codecReady true] } }
     s.env.codecUp = false ∧ (nextOf (step s)).map (fun t => (t.env.codecUp, t.env.codecClk)) = some (true, true)) := by
  decide

/-- A pair that is not live, one that is, and callback arrays longer and shorter than a block. -/
theorem witness_PipelineMovesOneWord : base.cfg.wf = true ∧ Memory.wf base.mem = true ∧
    base.liveBuf ≠ some 0 ∧ (running .loaded 0xDE000000#32).liveBuf ≠ some 1 ∧
    (running .loaded 0xDE000000#32).liveBuf = some 0 ∧ 0 < [full].length ∧ ¬1 < [full].length ∧
    (0 : Nat) < base.cfg.blockSizeA ∧ 3 < base.cfg.blockSizeA ∧ (1 : Nat) < 2 ∧
    (withOps base [.pipeCall]).host.ops = .pipeCall :: [] := by decide

/-- A transaction, a converter operation, a descriptor in memory, a loaded one. -/
theorem witness_StepRunsDecodedInstruction :
    let s (t : Turn) (d : State) : State := { d with env := { d.env with sched := [t] } }
    let m := s .dma { running .needLoad 0xDE000000#32 with mem := Memory.writeDesc [] 0xDE000000 d0 }
    let l := s .dma (loadedWith d1 .loaded 0xDE000020#32)
    let r := s .dma (loadedWith d0 .latched 0xDE000000#32)
    ((s (.reg 0x0A00000000001#49) base).env.sched = .reg 0x0A00000000001#49 :: [] ∧
      decode v1 (.reg 0x0A00000000001#49) = .ok (.pcmWrcs 1#32)) ∧
    ((s (.cvt 2#2 7#32 0#32 0#32 0#32) base).env.sched = .cvt 2#2 7#32 0#32 0#32 0#32 :: [] ∧
      decode v1 (.cvt 2#2 7#32 0#32 0#32 0#32) = .ok (.cvtF2i 7#32)) ∧
    (m.env.sched = .dma :: [] ∧ m.dma.active = true ∧ m.dmaFault = none ∧ m.dma.phase = .needLoad ∧
      m.dma.conblkAd ≠ 0#32 ∧ m.dma.conblkAd.toNat % 32 = 0 ∧ m.dma.conblkAd.toNat = m.cfg.descAddr 0 ∧
      0 < m.cfg.nDesc ∧ m.cfg.inBlock m.dma.conblkAd.toNat 32 = true ∧
      Cfg.descSlotsOnly { v1 with descSlotsOnly := false } = false ∧
      decode m.cfg (.desc m.fetchDesc) = .ok (.xferRx d0)) ∧
    (l.env.sched = .dma :: [] ∧ l.dma.active = true ∧ l.dmaFault = none ∧ l.dma.phase = .loaded ∧
      l.dma.ti &&& 0x001F0FF3#32 = 0x00020040#32) ∧
    (r.env.sched = .dma :: [] ∧ r.dma.active = true ∧ r.dmaFault = none ∧ r.dma.phase = .latched ∧
      r.dma.ti &&& 0x001F0FF3#32 = 0x00030400#32) := by decide

/-- A state that meets both invariants and steps: the first step after reset. -/
theorem witness_StepKeepsInvariants :
    let s := State.reset.withFetchWord 49 0x0A00000000001
    s.inv = true ∧ s.engineInv = true ∧ (nextOf (step s)).isSome = true := by decide

/-- The same of a step of the engine. -/
theorem witness_StepKeepsEngineInvariant :
    let s : State := { loadedWith d0 .latched 0xDE000000#32 with env := { base.env with sched := [.dma] } }
    s.engineInv = true ∧ (nextOf (step s)).isSome = true := by decide

theorem witness_FaultsAreNeverCleared :
    let s : State := { base with
      dmaFault := some .dmaBusError
      host := { base.host with loopFault := some .positionUndecodable }
      env := { base.env with sched := [.reg 0x1250080000000#49] } }
    (nextOf (step s)).isSome = true ∧ s.dmaFault ≠ none ∧ s.host.loopFault ≠ none := by decide

end Sys2Proof.Tests
end

section
/-! SUPPORT. What a step keeps for good: the configuration and the recorded faults (00 R4, R8, 60 R307),
followed through every operation that a step is made of. -/

namespace Sys2Proof.Machine

/-! ### The relation between a state and its successor -/

/-- From `s` to `t` the configuration is the same and a recorded fault is still the recorded one. -/
structure State.KeepsFaults (s t : State) : Prop where
  cfg : t.cfg = s.cfg
  dmaFault : s.dmaFault ≠ none → t.dmaFault = s.dmaFault
  loopFault : s.host.loopFault ≠ none → t.host.loopFault = s.host.loopFault

/-- Whatever next state the outcome `r` gives keeps the faults of `s`. -/
def State.OutcomeKeepsFaults (s : State) (r : Res) : Prop := ∀ t, r = .next t → s.KeepsFaults t

/-- An update of fields other than the three keeps the faults. -/
theorem State.KeepsFaults.of_eq {s t : State} (hcfg : t.cfg = s.cfg) (hdma : t.dmaFault = s.dmaFault)
    (hloop : t.host.loopFault = s.host.loopFault) : s.KeepsFaults t :=
  ⟨hcfg, fun _ => hdma, fun _ => hloop⟩

theorem State.KeepsFaults.refl (s : State) : s.KeepsFaults s := .of_eq rfl rfl rfl

theorem State.KeepsFaults.trans {s t u : State} (hst : s.KeepsFaults t) (htu : t.KeepsFaults u) :
    s.KeepsFaults u where
  cfg := htu.cfg.trans hst.cfg
  dmaFault h := (htu.dmaFault (hst.dmaFault h ▸ h)).trans (hst.dmaFault h)
  loopFault h := (htu.loopFault (hst.loopFault h ▸ h)).trans (hst.loopFault h)

theorem keepsFaults_withDma (s : State) (d : DmaState) : s.KeepsFaults (s.withDma d) :=
  .of_eq rfl rfl rfl

theorem keepsFaults_withPcm (s : State) (p : PcmState) : s.KeepsFaults (s.withPcm p) :=
  .of_eq rfl rfl rfl

theorem keepsFaults_withGpio (s : State) (g : GpioState) : s.KeepsFaults (s.withGpio g) :=
  .of_eq rfl rfl rfl

theorem keepsFaults_withMem (s : State) (m : List Host.Cell) : s.KeepsFaults (s.withMem m) :=
  .of_eq rfl rfl rfl

theorem keepsFaults_withOps (s : State) (ops : List HostOp) : s.KeepsFaults (s.withOps ops) :=
  .of_eq rfl rfl rfl

theorem keepsFaults_returns (s : State) (r : HostResult) : s.KeepsFaults (s.returns r) :=
  .of_eq rfl rfl rfl

/-- An engine fault may be recorded where there is none yet. -/
theorem keepsFaults_recordDmaFault {s : State} (h : s.dmaFault = none) (f : Fault) :
    s.KeepsFaults (s.recordDmaFault f) :=
  ⟨rfl, fun h' => absurd h h', fun _ => rfl⟩

/-- A loop fault may be recorded where there is none yet. -/
theorem keepsFaults_recordLoopFault {s : State} (h : s.host.loopFault = none) :
    s.KeepsFaults s.recordLoopFault :=
  ⟨rfl, fun _ => rfl, fun h' => absurd h h'⟩

/-! ### Outcomes -/

theorem outcomeKeepsFaults_next {s t : State} (h : s.KeepsFaults t) :
    s.OutcomeKeepsFaults (.next t) := by
  rintro _ ⟨⟩
  exact h

theorem outcomeKeepsFaults_refused (s : State) (r : Refusal) : s.OutcomeKeepsFaults (.refused r) :=
  fun _ h => nomatch h

theorem outcomeKeepsFaults_ite {s : State} {p : Prop} [Decidable p] {r r' : Res}
    (h : s.OutcomeKeepsFaults r) (h' : s.OutcomeKeepsFaults r') :
    s.OutcomeKeepsFaults (if p then r else r') := by
  split
  · exact h
  · exact h'

theorem State.OutcomeKeepsFaults.after {s t : State} {r : Res} (hr : t.OutcomeKeepsFaults r)
    (h : s.KeepsFaults t) : s.OutcomeKeepsFaults r :=
  fun u hu => h.trans (hr u hu)

theorem outcomeKeepsFaults_refusedUnless {s t : State} {p : Prop} [Decidable p] (h : s.KeepsFaults t)
    (r : Refusal) : s.OutcomeKeepsFaults (if p then .next t else .refused r) :=
  outcomeKeepsFaults_ite (outcomeKeepsFaults_next h) (outcomeKeepsFaults_refused s r)

theorem outcomeKeepsFaults_refusedIf {s t : State} {p : Prop} [Decidable p] (h : s.KeepsFaults t)
    (r : Refusal) : s.OutcomeKeepsFaults (if p then .refused r else .next t) :=
  outcomeKeepsFaults_ite (outcomeKeepsFaults_refused s r) (outcomeKeepsFaults_next h)

theorem onChannel_keepsFaults {s : State} {ch : BitVec 4} {r : Res} (h : s.OutcomeKeepsFaults r) :
    s.OutcomeKeepsFaults (s.onChannel ch r) :=
  fun t ht => h t (onChannel_next ht).2

theorem programs_keepsFaults {s : State} {r : Res} (h : s.OutcomeKeepsFaults r) :
    s.OutcomeKeepsFaults (s.programs r) :=
  fun t ht => h t (programs_next ht).2

theorem issues_keepsFaults {s : State} {i : Instr} {r : Res} (h : s.OutcomeKeepsFaults r) :
    s.OutcomeKeepsFaults (s.issues i r) :=
  fun t ht => h t (issues_next ht)

theorem regRead_keepsFaults (s : State) (v : Word) : s.OutcomeKeepsFaults (s.regRead v) :=
  outcomeKeepsFaults_next (.of_eq rfl rfl rfl)

theorem regReadFree_keepsFaults (s : State) (v : Word) : s.OutcomeKeepsFaults (s.regReadFree v) :=
  outcomeKeepsFaults_next (.of_eq rfl rfl rfl)

/-! ### Accesses to the FIFO port and to memory -/

theorem popRx_keepsFaults {s t : State} {w : Word} (h : s.popRx = .ok (w, t)) : s.KeepsFaults t := by
  obtain ⟨r, -, rfl⟩ := popRx_ok h
  exact keepsFaults_withPcm s _

theorem pushTx_keepsFaults {s t : State} {v : Word} (h : s.pushTx v = .ok t) : s.KeepsFaults t := by
  obtain ⟨-, rfl⟩ := pushTx_ok h
  exact keepsFaults_withPcm s _

theorem busRead_keepsFaults {s t : State} {a w : Word} (h : s.busRead a = .ok (w, t)) :
    s.KeepsFaults t := by
  obtain ⟨-, r, -, rfl⟩ | ⟨-, -, -, rfl⟩ := busRead_ok h
  · exact keepsFaults_withPcm s _
  · exact .refl _

theorem busWrite_keepsFaults {s t : State} {a v : Word} (h : s.busWrite a v = .ok t) :
    s.KeepsFaults t := by
  obtain ⟨-, -, rfl⟩ | ⟨-, -, rfl⟩ := busWrite_ok h
  · exact keepsFaults_withPcm s _
  · exact keepsFaults_withMem s _

theorem hostRead_keepsFaults {s t : State} {a w : Word} (h : s.hostRead a = .ok (w, t)) :
    s.KeepsFaults t := by
  obtain ⟨-, -, r, -, rfl⟩ | ⟨-, -, -, rfl⟩ := hostRead_ok h
  · exact keepsFaults_withPcm s _
  · split
    · exact .of_eq rfl rfl rfl
    · exact .refl s

theorem hostWrite_keepsFaults {s t : State} {a v : Word} (h : s.hostWrite a v = .ok t) :
    s.KeepsFaults t := by
  obtain ⟨-, -, -, rfl⟩ | ⟨-, -, -, -, rfl⟩ := hostWrite_ok h
  · exact keepsFaults_withPcm s _
  · exact keepsFaults_withMem s _

theorem portRead_keepsFaults {s : State} {x : Access (Word × State)}
    (h : ∀ w t, x = .ok (w, t) → s.KeepsFaults t) : s.OutcomeKeepsFaults (portRead x) := by
  intro t ht
  obtain ⟨w, u, hx, rfl⟩ := portRead_next ht
  exact (h w u hx).trans (keepsFaults_returns u _)

theorem portWrite_keepsFaults {s : State} {x : Access State} (h : ∀ t, x = .ok t → s.KeepsFaults t) :
    s.OutcomeKeepsFaults (portWrite x) :=
  fun t ht => h t (portWrite_next ht)

theorem walkWrite_keepsFaults (s : State) (a v : Word) (rest : List HostOp) :
    s.OutcomeKeepsFaults (s.walkWrite a v rest) := by
  intro t ht
  obtain ⟨u, hu, rfl⟩ := walkWrite_next ht
  exact (hostWrite_keepsFaults hu).trans (keepsFaults_withOps u rest)

/-! ### Instructions -/

theorem readBeat_keepsFaults {s : State} (h : s.dmaFault = none) : s.OutcomeKeepsFaults s.readBeat := by
  intro t ht
  obtain rfl | ⟨w, u, hu, rfl⟩ := readBeat_next ht
  · exact keepsFaults_recordDmaFault h _
  · exact (busRead_keepsFaults hu).trans (keepsFaults_withDma u _)

theorem writeBeat_keepsFaults {s : State} (h : s.dmaFault = none) :
    s.OutcomeKeepsFaults s.writeBeat := by
  intro t ht
  obtain rfl | ⟨u, hu, rfl⟩ := writeBeat_next ht
  · exact keepsFaults_recordDmaFault h _
  · exact (busWrite_keepsFaults hu).trans (.of_eq rfl rfl rfl)

/-- A beat is taken by an engine that runs, hence one without a fault, so the bus fault it may record is
the first. -/
theorem transferStep_keepsFaults (s : State) (d : Desc) (dreq : Bool) :
    s.OutcomeKeepsFaults (s.transferStep d dreq) := by
  intro t ht
  obtain rfl | ⟨hrun, hcase⟩ := transferStep_next ht
  · exact .refl _
  · have hnone : s.dmaFault = none := ((engineRuns_iff s).1 hrun).2
    obtain ⟨-, rfl⟩ | ⟨-, -, hbeat⟩ | ⟨-, hbeat⟩ := hcase
    · exact .of_eq rfl rfl rfl
    · exact readBeat_keepsFaults hnone t hbeat
    · exact writeBeat_keepsFaults hnone t hbeat

theorem exec_keepsFaults (i : Instr) (s : State) : s.OutcomeKeepsFaults (exec i s) := by
  cases i with
  | xferRx d => exact transferStep_keepsFaults s d _
  | xferTx d => exact transferStep_keepsFaults s d _
  | xferOther d => exact outcomeKeepsFaults_refused s _
  | dmaRdcs ch | dmaRddbg ch => exact onChannel_keepsFaults (regReadFree_keepsFaults s _)
  | dmaReset ch v | dmaAbort ch v | dmaGo ch v | dmaPause ch v | dmaSetcb ch v =>
    exact onChannel_keepsFaults (outcomeKeepsFaults_refusedIf (keepsFaults_withDma s _) _)
  | dmaRdpos ch | dmaRdti ch | dmaRdsrc ch | dmaRddst ch | dmaRdlen ch | dmaRdstride ch | dmaRdnext ch =>
    exact onChannel_keepsFaults (regRead_keepsFaults s _)
  | dmaClrdbg ch v => exact onChannel_keepsFaults (outcomeKeepsFaults_next (keepsFaults_withDma s _))
  | pcmRdcs | pcmRdintstc => exact regReadFree_keepsFaults s _
  | pcmWrcs v => exact outcomeKeepsFaults_refusedIf (keepsFaults_withPcm s _) _
  | pcmRdfifo => exact programs_keepsFaults (portRead_keepsFaults fun _ _ => popRx_keepsFaults)
  | pcmWrfifo v => exact programs_keepsFaults (portWrite_keepsFaults fun _ => pushTx_keepsFaults)
  | pcmRdmode | pcmRdrxc | pcmRdtxc | pcmRddreq | pcmRdinten => exact regRead_keepsFaults s _
  | pcmWrmode v =>
    exact programs_keepsFaults (outcomeKeepsFaults_ite (outcomeKeepsFaults_refused s _)
      (outcomeKeepsFaults_refusedIf (keepsFaults_withPcm s _) _))
  | pcmWrrxc v | pcmWrtxc v =>
    exact programs_keepsFaults (outcomeKeepsFaults_refusedUnless (keepsFaults_withPcm s _) _)
  | pcmWrdreq v | pcmWrinten v =>
    exact programs_keepsFaults (outcomeKeepsFaults_refusedIf (keepsFaults_withPcm s _) _)
  | pcmWrintstc v => exact outcomeKeepsFaults_next (.refl s)
  | gpioSetfn reg field f => exact outcomeKeepsFaults_refusedUnless (keepsFaults_withGpio s _) _
  | gpioRead bank => exact regReadFree_keepsFaults s _
  | gpioSet bank v | gpioClr bank v | gpioPud v | gpioPudclk bank v =>
    exact outcomeKeepsFaults_next (.of_eq rfl rfl rfl)
  | cvtI2f w | cvtI2fV4 w0 w1 w2 w3 | cvtF2i w | cvtF2iV4 w0 w1 w2 w3 =>
    exact outcomeKeepsFaults_next (.of_eq rfl rfl rfl)

theorem runEncoded_keepsFaults (s : State) (e : Encoded) : s.OutcomeKeepsFaults (s.runEncoded e) := by
  intro t ht
  obtain ⟨i, -, hi⟩ := runEncoded_next ht
  exact exec_keepsFaults i s t hi

/-! ### HOST's sequences -/

theorem clearRegionStep_keepsFaults (s : State) (i : Nat) (rest : List HostOp) :
    s.OutcomeKeepsFaults (s.clearRegionStep i rest) :=
  outcomeKeepsFaults_ite (walkWrite_keepsFaults s _ _ _) (outcomeKeepsFaults_next (.of_eq rfl rfl rfl))

theorem chainBuildStep_keepsFaults (s : State) (i : Nat) (rest : List HostOp) :
    s.OutcomeKeepsFaults (s.chainBuildStep i rest) :=
  outcomeKeepsFaults_ite (walkWrite_keepsFaults s _ _ _) (outcomeKeepsFaults_next (.of_eq rfl rfl rfl))

theorem pipeInStep_keepsFaults (s : State) (k : Fin 2) (i : Nat) (rest : List HostOp) :
    s.OutcomeKeepsFaults (s.pipeInStep k i rest) := by
  refine outcomeKeepsFaults_ite ?_ (outcomeKeepsFaults_next (.of_eq rfl rfl rfl))
  split
  next w t hread =>
    exact outcomeKeepsFaults_next ((hostRead_keepsFaults hread).trans (.of_eq rfl rfl rfl))
  next => exact outcomeKeepsFaults_refused s _
  next => exact outcomeKeepsFaults_refused s _

theorem pipeOutStep_keepsFaults (s : State) (k : Fin 2) (i : Nat) (rest : List HostOp) :
    s.OutcomeKeepsFaults (s.pipeOutStep k i rest) :=
  outcomeKeepsFaults_ite
    ((walkWrite_keepsFaults (s.drew 1) _ _ _).after (.of_eq rfl rfl rfl))
    (outcomeKeepsFaults_next (.of_eq rfl rfl rfl))

theorem readPositionStep_keepsFaults {s : State} (h : s.host.loopFault = none) (rest : List HostOp) :
    s.KeepsFaults (s.readPositionStep rest) := by
  unfold State.readPositionStep
  split
  · exact .of_eq rfl rfl rfl
  · exact keepsFaults_recordLoopFault h

theorem busyPollStep_keepsFaults {s : State} (h : s.host.loopFault = none) (rest : List HostOp) :
    s.KeepsFaults (s.busyPollStep rest) := by
  unfold State.busyPollStep
  split
  · split
    · exact .of_eq rfl rfl rfl
    · exact .refl s
  · exact keepsFaults_recordLoopFault h

theorem clearErrorsStep_keepsFaults (s : State) (rest : List HostOp) :
    s.OutcomeKeepsFaults (s.clearErrorsStep rest) :=
  outcomeKeepsFaults_ite
    ((runEncoded_keepsFaults _ _).after (.of_eq rfl rfl rfl))
    (outcomeKeepsFaults_next (.of_eq rfl rfl rfl))

theorem adoptStep_keepsFaults (s : State) (rest : List HostOp) : s.KeepsFaults (s.adoptStep rest) := by
  unfold State.adoptStep
  split <;> exact .of_eq rfl rfl rfl

theorem notifyStep_keepsFaults (s : State) (rest : List HostOp) : s.KeepsFaults (s.notifyStep rest) := by
  unfold State.notifyStep
  split <;> exact .of_eq rfl rfl rfl

theorem loopHeadStep_keepsFaults (s : State) (rest : List HostOp) :
    s.KeepsFaults (s.loopHeadStep rest) := by
  unfold State.loopHeadStep
  split <;> exact .of_eq rfl rfl rfl

theorem snapshotStep_keepsFaults (s : State) (i : Nat) (rest : List HostOp) :
    s.KeepsFaults (s.snapshotStep i rest) := by
  unfold State.snapshotStep
  split
  · dsimp only
    split <;> exact .of_eq rfl rfl rfl
  · exact .of_eq rfl rfl rfl

theorem gpioLevelStep_keepsFaults (s : State) (pin : Nat) (rest : List HostOp) :
    s.OutcomeKeepsFaults (s.gpioLevelStep pin rest) :=
  outcomeKeepsFaults_ite
    (issues_keepsFaults ((regReadFree_keepsFaults _ _).after (keepsFaults_withOps s rest)))
    (outcomeKeepsFaults_refused s _)

theorem gpioPullStep_keepsFaults (s : State) (pin : Nat) (mode : Pull) (rest : List HostOp) :
    s.OutcomeKeepsFaults (s.gpioPullStep pin mode rest) :=
  outcomeKeepsFaults_ite
    (issues_keepsFaults (issues_keepsFaults (outcomeKeepsFaults_next (.of_eq rfl rfl rfl))))
    (outcomeKeepsFaults_refused s _)

/-- A step of HOST's sequence, taken only while no loop fault is recorded. -/
theorem hostOpStep_keepsFaults {s : State} (h : s.host.loopFault = none) (op : HostOp)
    (rest : List HostOp) : s.OutcomeKeepsFaults (s.hostOpStep op rest) := by
  cases op with
  | run i | csWrite clr set =>
    exact (runEncoded_keepsFaults _ _).after (keepsFaults_withOps s rest)
  | codecReset | chainBases | startDone | stopDone | sleep =>
    exact outcomeKeepsFaults_next (.of_eq rfl rfl rfl)
  | codecBringUp | pipeCall => exact outcomeKeepsFaults_next (.refl s)
  | clearRegion i => exact clearRegionStep_keepsFaults s i rest
  | chainBuild i => exact chainBuildStep_keepsFaults s i rest
  | loopHead => exact outcomeKeepsFaults_next (loopHeadStep_keepsFaults s rest)
  | pipeIn k i => exact pipeInStep_keepsFaults s k i rest
  | pipeOut k i => exact pipeOutStep_keepsFaults s k i rest
  | readPosition =>
    exact issues_keepsFaults (outcomeKeepsFaults_next (readPositionStep_keepsFaults h rest))
  | readStatus => exact issues_keepsFaults (outcomeKeepsFaults_next (.of_eq rfl rfl rfl))
  | clearErrors => exact clearErrorsStep_keepsFaults s rest
  | adopt => exact outcomeKeepsFaults_next (adoptStep_keepsFaults s rest)
  | notify => exact outcomeKeepsFaults_next (notifyStep_keepsFaults s rest)
  | busyPoll => exact issues_keepsFaults (outcomeKeepsFaults_next (busyPollStep_keepsFaults h rest))
  | position => exact issues_keepsFaults (outcomeKeepsFaults_next (.of_eq rfl rfl rfl))
  | snapshot i => exact outcomeKeepsFaults_next (snapshotStep_keepsFaults s i rest)
  | gpioLevel pin => exact gpioLevelStep_keepsFaults s pin rest
  | gpioPull pin mode => exact gpioPullStep_keepsFaults s pin mode rest

theorem hostTurn_keepsFaults (s : State) : s.OutcomeKeepsFaults s.hostTurn := by
  unfold State.hostTurn
  split
  · split
    · exact outcomeKeepsFaults_next (.refl s)
    · exact hostOpStep_keepsFaults (by simpa using ‹¬s.host.loopFault.isSome = true›) _ _
  · exact outcomeKeepsFaults_next (.refl s)

/-! ### The agents' turns -/

theorem dmaTurn_keepsFaults (s : State) : s.OutcomeKeepsFaults s.dmaTurn := by
  unfold State.dmaTurn
  split
  next hrun =>
    split
    · exact outcomeKeepsFaults_next (.refl s)
    · refine outcomeKeepsFaults_ite (outcomeKeepsFaults_next (.of_eq rfl rfl rfl))
        (outcomeKeepsFaults_ite (runEncoded_keepsFaults s _) (outcomeKeepsFaults_next ?_))
      exact keepsFaults_recordDmaFault ((engineRuns_iff s).1 hrun).2 _
    · exact exec_keepsFaults _ s
    · exact exec_keepsFaults _ s
  next => exact outcomeKeepsFaults_next (.refl s)

theorem rxWord_keepsFaults (s : State) (v : BitVec 24) : s.KeepsFaults (s.rxWord v) := by
  unfold State.rxWord
  split
  · exact .refl s
  · dsimp only
    split <;> exact .of_eq rfl rfl rfl

theorem txWord_keepsFaults (s : State) : s.KeepsFaults s.txWord := by
  unfold State.txWord
  split
  · exact .refl s
  · dsimp only
    split <;> exact .of_eq rfl rfl rfl

theorem initCall_keepsFaults (s : State) (alloc : AllocOutcome) (i o : Nat) :
    s.KeepsFaults (s.initCall alloc i o) := by
  unfold State.initCall
  dsimp only
  split <;> exact .of_eq rfl rfl rfl

theorem stopCall_keepsFaults (s : State) (after : List HostOp) : s.KeepsFaults (s.stopCall after) :=
  .of_eq rfl rfl rfl

theorem callTurn_keepsFaults (s : State) (c : Call) : s.OutcomeKeepsFaults (s.callTurn c) := by
  refine outcomeKeepsFaults_ite (outcomeKeepsFaults_next (.refl s)) ?_
  cases c with
  | init alloc i o => exact outcomeKeepsFaults_refusedUnless (initCall_keepsFaults s alloc i o) _
  | start => exact outcomeKeepsFaults_refusedUnless (keepsFaults_withOps s _) _
  | stop | restart => exact outcomeKeepsFaults_refusedUnless (stopCall_keepsFaults s _) _
  | getLastError => exact outcomeKeepsFaults_refusedUnless (keepsFaults_returns s _) _

theorem pseudoTurn_keepsFaults (s : State) (p : Pseudo) : s.OutcomeKeepsFaults (s.pseudoTurn p) := by
  intro t ht
  rw [pseudoTurn_next ht]
  exact keepsFaults_withOps s _

theorem codecReadyTurn_keepsFaults (s : State) (ok : Bool) : s.KeepsFaults (s.codecReadyTurn ok) := by
  unfold State.codecReadyTurn
  split
  · split <;> exact .of_eq rfl rfl rfl
  · exact .refl s

theorem callbackTurn_keepsFaults (s : State) (out0 out1 : List Word) (exit : Bool) :
    s.KeepsFaults (s.callbackTurn out0 out1 exit) := by
  unfold State.callbackTurn
  split
  · exact .of_eq rfl rfl rfl
  · exact .refl s

theorem runTurn_keepsFaults (s : State) (turn : Turn) : s.OutcomeKeepsFaults (s.runTurn turn) := by
  cases turn with
  | dma => exact dmaTurn_keepsFaults s
  | rx v => exact outcomeKeepsFaults_next (rxWord_keepsFaults s v)
  | tx => exact outcomeKeepsFaults_next (txWord_keepsFaults s)
  | reg w => exact runEncoded_keepsFaults s (.reg w)
  | cvt sel w0 w1 w2 w3 => exact runEncoded_keepsFaults s (.cvt sel w0 w1 w2 w3)
  | memRead a => exact portRead_keepsFaults fun _ _ => hostRead_keepsFaults
  | memWrite a v => exact portWrite_keepsFaults fun _ => hostWrite_keepsFaults
  | pseudo p => exact pseudoTurn_keepsFaults s p
  | host => exact hostTurn_keepsFaults s
  | call c => exact callTurn_keepsFaults s c
  | codecReady ok => exact outcomeKeepsFaults_next (codecReadyTurn_keepsFaults s ok)
  | codecClock on | requestExit => exact outcomeKeepsFaults_next (.of_eq rfl rfl rfl)
  | callback out0 out1 exit => exact outcomeKeepsFaults_next (callbackTurn_keepsFaults s out0 out1 exit)

theorem takeTurn_keepsFaults (s : State) : s.KeepsFaults s.takeTurn.2 := by
  unfold State.takeTurn
  split <;> exact .of_eq rfl rfl rfl

theorem step_keepsFaults (s : State) : s.OutcomeKeepsFaults (step s) :=
  (runTurn_keepsFaults _ _).after (takeTurn_keepsFaults s)

/-- Settles O60: every turn of every agent keeps the configuration and a recorded fault; a fault is
recorded only by an engine that runs, or by a step of HOST's sequence, and neither has a step after one. -/
theorem faultsAreNeverCleared : Obligations.FaultsAreNeverCleared := by
  intro s t h
  have hkeeps := step_keepsFaults s t h
  exact ⟨hkeeps.cfg, hkeeps.dmaFault, hkeeps.loopFault⟩

end Sys2Proof.Machine
end

section
/-! SUPPORT. The application's calls (44 R230): what INIT checks (00 R10) and what it and GET_LAST_ERROR
answer. -/

namespace Sys2Proof.Machine

/-- The conditions of 00 R10 a configuration is well formed by, the block being apart from an address
range when no address of the block lies in it (20 R62). -/
theorem Cfg.wf_iff (c : Cfg) : c.wf = true ↔
    let outside (a n : Nat) : Prop := ∀ x, c.blockBus.toNat ≤ x →
      x < c.blockBus.toNat + c.blockLen → ¬(a ≤ x ∧ x < a + n)
    1 ≤ c.blockSize ∧ c.blockBus.toNat % 32 = 0 ∧ c.blockBus.toNat + c.blockLen ≤ 2 ^ 32 ∧
      outside c.pcmFifoBus.toNat 4 ∧ outside c.gpioBus.toNat c.winGpio ∧
      outside c.pcmBus.toNat c.winPcm ∧ outside c.dmaBus.toNat c.winDma ∧
      0 < c.prefillWords ∧ c.prefillWords % 2 = 0 ∧ c.prefillWords ≤ c.fifoDepth ∧
      1 ≤ c.rxReqLevel ∧ c.rxReqLevel ≤ c.fifoDepth ∧
      1 ≤ c.txReqLevel ∧ c.txReqLevel ≤ c.fifoDepth ∧ c.prefillWords < c.txReqLevel := by
  simp only [Cfg.wf, Bool.and_eq_true, decide_eq_true_eq, and_assoc]
  refine and_congr_right fun hsize => ?_
  have hlen := blockLen_pos hsize
  rw [apart_iff hlen, apart_iff hlen, apart_iff hlen, apart_iff hlen]

/-- The allocator having answered, INIT finds nothing to report exactly when the configuration is well
formed and both channel bases leave the two channels in range (log 24). -/
theorem initDiag_ok (c : Cfg) (i o : Nat) : initDiag c .ok i o =
    if c.wf = true ∧ i + 2 ≤ 2 ∧ o + 2 ≤ 2 then .none else .configChannels := by
  simp only [initDiag, Bool.and_eq_true, decide_eq_true_eq, and_assoc]

theorem initCall_of_none {s : State} {alloc : AllocOutcome} {i o : Nat}
    (h : initDiag s.cfg alloc i o = .none) : s.initCall alloc i o =
      { s with
        host := { s.host with
          inited := true, everInited := true, result := .initOk s.cfg.sampleRate s.free.toNat }
        env := { s.env with draws := s.env.draws + 1 } } :=
  if_pos h

theorem initCall_of_diag {s : State} {alloc : AllocOutcome} {i o : Nat} {d : Diag}
    (h : initDiag s.cfg alloc i o = d) (hd : d ≠ .none) : s.initCall alloc i o =
      { s with host := { s.host with inited := false, lastError := d, result := .error d } } := by
  subst h
  exact if_neg hd

/-- No call is pending in a Stopped transport with an empty sequence. -/
theorem callBusy_of_stopped {s : State} (hstate : s.host.tstate = .stopped) (hops : s.host.ops = []) :
    s.callBusy = false := by
  simp [State.callBusy, hstate, hops]

/-- No call is pending in a Running transport that has not been told to stop. -/
theorem callBusy_of_running {s : State} (hstate : s.host.tstate = .running)
    (hexit : s.host.exitFlag = false) : s.callBusy = false := by
  simp [State.callBusy, hstate, hexit]

theorem runTurn_init {s : State} (hbusy : s.callBusy = false) (alloc : AllocOutcome) (i o : Nat) :
    s.runTurn (.call (.init alloc i o)) =
      if s.host.tstate = .stopped then .next (s.initCall alloc i o) else .refused .lifecycle := by
  simp [State.runTurn, State.callTurn, hbusy]

theorem runTurn_getLastError {s : State} (hbusy : s.callBusy = false) :
    s.runTurn (.call .getLastError) =
      if s.host.everInited then .next (s.returns (.diag s.host.lastError))
      else .refused .lifecycle := by
  simp [State.runTurn, State.callTurn, hbusy]

/-- Settles O52: a call made while none is pending runs at once; INIT reports the diagnostic of the first
check that fails, and its check of the configuration is 00 R10's. -/
theorem initReportsOutcome : Obligations.InitReportsOutcome := by
  intro s alloc i o c lo outside good fails
  have hgood : good ↔ c.wf = true ∧ i + 2 ≤ 2 ∧ o + 2 ≤ 2 := by
    rw [Cfg.wf_iff]
    simp only [good, outside, lo, and_assoc]
  refine ⟨fun hstate hops => ?_, fun hstate hexit => ?_, fun hidle => ?_⟩
  · rw [runTurn_init (callBusy_of_stopped hstate hops), if_pos hstate]
    refine ⟨?_, ?_, ?_, ?_, ?_⟩
    · rintro rfl h
      rw [initCall_of_none ((initDiag_ok c i o).trans (if_pos (hgood.1 h)))]
      exact ⟨s.free.toNat, rfl⟩
    · rintro rfl h
      rw [initCall_of_diag ((initDiag_ok c i o).trans (if_neg (mt hgood.2 h))) (by decide)]
    · rintro rfl
      rw [initCall_of_diag (d := .outOfKernelMemory) rfl (by decide)]
    · rintro rfl
      rw [initCall_of_diag (d := .cannotLock) rfl (by decide)]
    · rintro rfl
      rw [initCall_of_diag (d := .cannotMap) rfl (by decide)]
  · rw [runTurn_init (callBusy_of_running hstate hexit), if_neg (by simp [hstate])]
  · have hbusy : s.callBusy = false := by
      obtain ⟨hstate, hops⟩ | ⟨hstate, hexit⟩ := hidle
      · exact callBusy_of_stopped hstate hops
      · exact callBusy_of_running hstate hexit
    rw [runTurn_getLastError hbusy]
    refine ⟨fun h => ?_, fun h => ?_⟩
    · rw [if_pos h]
      rfl
    · rw [if_neg (by simp [h])]

end Sys2Proof.Machine
end

section
/-! SUPPORT. The binary32 rounding (00 R7): what a pattern's value is, which multiples of a power of two
finite values are, and that the model's rounding takes the nearest one, ties to even. -/

namespace Sys2Proof.Machine

/-! ### Patterns and their values -/

/-- `±1`. -/
def signFactor (neg : Bool) : ℚ := if neg then -1 else 1

theorem signFactor_mul_self (neg : Bool) : signFactor neg * signFactor neg = 1 := by
  cases neg <;> simp [signFactor]

theorem abs_signFactor (neg : Bool) : |signFactor neg| = 1 := by
  cases neg <;> simp [signFactor]

theorem f32Value_eq (w : Word) : f32Value w =
    signFactor (f32Unpack w).neg * (f32Unpack w).mant * 2 ^ (f32Unpack w).exp := rfl

/-- The pattern with a sign bit and the 31 bits `mag`. -/
def f32Pattern (neg : Bool) (mag : Nat) : Word := BitVec.ofNat 32 ((if neg then 2 ^ 31 else 0) + mag)

section
variable (neg : Bool) {mag : Nat} (hmag : mag < 2 ^ 31)
include hmag

theorem f32Pattern_toNat : (f32Pattern neg mag).toNat = (if neg then 2 ^ 31 else 0) + mag := by
  rw [f32Pattern, BitVec.toNat_ofNat, Nat.mod_eq_of_lt]
  cases neg <;> simp <;> omega

theorem f32Pattern_sign : (f32Pattern neg mag).getLsbD 31 = neg := by
  rw [← BitVec.testBit_toNat, f32Pattern_toNat neg hmag, Nat.testBit_eq_decide_div_mod_eq]
  cases neg <;> simp <;> omega

theorem f32Pattern_exponent : ((f32Pattern neg mag).extractLsb' 23 8).toNat = mag / 2 ^ 23 := by
  rw [BitVec.extractLsb'_toNat, f32Pattern_toNat neg hmag, Nat.shiftRight_eq_div_pow]
  cases neg <;> simp <;> omega

theorem f32Pattern_fraction : ((f32Pattern neg mag).extractLsb' 0 23).toNat = mag % 2 ^ 23 := by
  rw [BitVec.extractLsb'_toNat, f32Pattern_toNat neg hmag, Nat.shiftRight_zero]
  cases neg
  · simp
  · simp
    omega

theorem f32Pattern_magnitude : ((f32Pattern neg mag).extractLsb' 0 31).toNat = mag := by
  rw [BitVec.extractLsb'_toNat, f32Pattern_toNat neg hmag, Nat.shiftRight_zero]
  cases neg <;> simp <;> omega

theorem f32IsFinite_f32Pattern : f32IsFinite (f32Pattern neg mag) = true ↔ mag < 0x7F800000 := by
  rw [f32IsFinite, f32Pattern_magnitude neg hmag, decide_eq_true_eq]

theorem f32Pattern_lastBit : (f32Pattern neg mag).getLsbD 0 = decide (mag % 2 = 1) := by
  rw [← BitVec.testBit_toNat, f32Pattern_toNat neg hmag, Nat.testBit_eq_decide_div_mod_eq]
  cases neg
  · simp
  · simp
    omega

theorem f32Unpack_f32Pattern : f32Unpack (f32Pattern neg mag) =
    if mag / 2 ^ 23 = 0 then ⟨neg, mag % 2 ^ 23, -149⟩
    else ⟨neg, mag % 2 ^ 23 + 2 ^ 23, (mag / 2 ^ 23 : ℕ) - 150⟩ := by
  simp only [f32Unpack, f32Pattern_exponent neg hmag, f32Pattern_fraction neg hmag,
    f32Pattern_sign neg hmag]

/-- A subnormal pattern. -/
theorem f32Value_f32Pattern_subnormal (h : mag < 2 ^ 23) :
    f32Value (f32Pattern neg mag) = signFactor neg * mag * 2 ^ (-149 : ℤ) := by
  have hfrac : mag % 2 ^ 23 = mag := by omega
  rw [f32Value_eq, f32Unpack_f32Pattern neg hmag, if_pos (by omega), hfrac]

/-- A normal pattern. -/
theorem f32Value_f32Pattern_normal (h : 2 ^ 23 ≤ mag) :
    f32Value (f32Pattern neg mag) =
      signFactor neg * (mag % 2 ^ 23 + 2 ^ 23 : ℕ) * 2 ^ ((mag / 2 ^ 23 : ℕ) - 150 : ℤ) := by
  rw [f32Value_eq, f32Unpack_f32Pattern neg hmag, if_neg (by omega)]

end

/-- The binade `n` with a significand of up to 24 bits, a carry into the next binade included: the value
is the significand times the unit of the binade. -/
theorem f32Value_f32Pattern_binade (neg : Bool) {n q : Nat} (hfin : n * 2 ^ 23 + q < 0x7F800000)
    (hq : q ≤ 2 ^ 24) (hn : n = 0 ∨ 2 ^ 23 ≤ q) :
    f32Value (f32Pattern neg (n * 2 ^ 23 + q)) = signFactor neg * q * 2 ^ (n - 149 : ℤ) := by
  have hmag : n * 2 ^ 23 + q < 2 ^ 31 := by omega
  rcases lt_or_ge q (2 ^ 23) with hsub | hnorm
  · obtain rfl : n = 0 := by omega
    rw [f32Value_f32Pattern_subnormal neg hmag (by omega)]
    norm_num
  rw [f32Value_f32Pattern_normal neg hmag (by omega)]
  rcases hq.lt_or_eq with hlt | rfl
  · have hexp : (n * 2 ^ 23 + q) / 2 ^ 23 = n + 1 := by omega
    have hfrac : (n * 2 ^ 23 + q) % 2 ^ 23 + 2 ^ 23 = q := by omega
    rw [hexp, hfrac]
    congr 2
    push_cast
    ring
  · have hexp : (n * 2 ^ 23 + 2 ^ 24) / 2 ^ 23 = n + 2 := by omega
    have hfrac : (n * 2 ^ 23 + 2 ^ 24) % 2 ^ 23 + 2 ^ 23 = 2 ^ 23 := by omega
    rw [hexp, hfrac, show ((n + 2 : ℕ) - 150 : ℤ) = (n - 149) + 1 by push_cast; ring,
      zpow_add_one₀ two_ne_zero]
    push_cast
    ring

theorem f32Value_zero (neg : Bool) : f32Value (f32Pattern neg 0) = 0 := by
  simpa using f32Value_f32Pattern_subnormal neg (mag := 0) (by decide) (by decide)

/-! ### Multiples of the unit of a binade -/

theorem f32Unpack_mant_lt (w : Word) : (f32Unpack w).mant < 2 ^ 24 := by
  have hfrac := (w.extractLsb' 0 23).isLt
  unfold f32Unpack
  dsimp only
  split <;> dsimp only <;> omega

theorem f32Unpack_exp_ge (w : Word) : -149 ≤ (f32Unpack w).exp := by
  unfold f32Unpack
  dsimp only
  split <;> dsimp only <;> omega

/-- A value is a whole multiple of the unit of binade `n`, or, in a binade above the lowest, it is smaller
than every value of the binade. -/
theorem f32Value_multiple_or_small (w : Word) (n : Nat) :
    (∃ z : ℤ, f32Value w = z * 2 ^ (n - 149 : ℤ)) ∨
    (n ≠ 0 ∧ |f32Value w| < 2 ^ 23 * 2 ^ (n - 149 : ℤ)) := by
  have hmant := f32Unpack_mant_lt w
  have hexp := f32Unpack_exp_ge w
  have hval := f32Value_eq w
  generalize f32Unpack w = x at hmant hexp hval
  obtain ⟨neg, mant, exp⟩ := x
  dsimp only at hmant hexp hval
  rcases le_or_gt (n - 149 : ℤ) exp with hle | hlt
  · left
    obtain ⟨k, rfl⟩ : ∃ k : ℕ, exp = (n - 149 : ℤ) + k := ⟨(exp - (n - 149)).toNat, by omega⟩
    refine ⟨(if neg then -1 else 1) * mant * 2 ^ k, ?_⟩
    rw [hval, zpow_add₀ two_ne_zero, zpow_natCast]
    cases neg <;> simp [signFactor] <;> ring
  · right
    refine ⟨by omega, ?_⟩
    calc |f32Value w| = mant * 2 ^ exp := by
          rw [hval, abs_mul, abs_mul, abs_signFactor, one_mul, Nat.abs_cast,
            abs_of_pos (zpow_pos two_pos exp)]
      _ < 2 ^ 24 * 2 ^ exp := by
          gcongr
          exact_mod_cast hmant
      _ = 2 ^ 23 * 2 ^ (exp + 1) := by
          rw [zpow_add_one₀ two_ne_zero]
          ring
      _ ≤ 2 ^ 23 * 2 ^ (n - 149 : ℤ) := by
          gcongr
          · norm_num
          · omega

/-! ### Rounding to a whole number -/

/-- `q` is a whole number at most 1/2 away from `r`, even where it is exactly 1/2 away. -/
def IsNearestEven (q : ℕ) (r : ℚ) : Prop := |(q : ℚ) - r| ≤ 1 / 2 ∧ (|(q : ℚ) - r| = 1 / 2 → q % 2 = 0)

theorem isNearestEven_natCast (q : ℕ) : IsNearestEven q q := by
  norm_num [IsNearestEven]

/-- Dropping a fraction `t` of at most 1/2. -/
theorem isNearestEven_down {q : ℕ} {t : ℚ} (h0 : 0 ≤ t) (ht : t ≤ 1 / 2)
    (htie : t = 1 / 2 → q % 2 = 0) : IsNearestEven q (q + t) := by
  have hdist : |(q : ℚ) - (q + t)| = t := by rw [sub_add_cancel_left, abs_neg, abs_of_nonneg h0]
  rw [IsNearestEven, hdist]
  exact ⟨ht, htie⟩

/-- Completing a fraction `t` of at least 1/2. -/
theorem isNearestEven_up {q : ℕ} {t : ℚ} (h1 : t < 1) (ht : 1 / 2 ≤ t)
    (htie : t = 1 / 2 → (q + 1) % 2 = 0) : IsNearestEven (q + 1) (q + t) := by
  have hdist : |((q + 1 : ℕ) : ℚ) - (q + t)| = 1 - t := by
    rw [Nat.cast_succ, add_sub_add_left_eq_sub, abs_of_pos (sub_pos.2 h1)]
  rw [IsNearestEven, hdist]
  exact ⟨by linarith, fun h => htie (by linarith)⟩

theorem roundShift_isNearestEven (m k : ℕ) : IsNearestEven (roundShift m k) (m / 2 ^ k) := by
  have hpos : (0 : ℚ) < 2 ^ k := by positivity
  have hm : (m : ℚ) / 2 ^ k = (m / 2 ^ k : ℕ) + (m % 2 ^ k : ℕ) / 2 ^ k := by
    rw [div_eq_iff hpos.ne', add_mul, div_mul_cancel₀ _ hpos.ne']
    exact_mod_cast (Nat.div_add_mod' m (2 ^ k)).symm
  have hlt : ((m % 2 ^ k : ℕ) : ℚ) / 2 ^ k < 1 := by
    rw [div_lt_one hpos]
    exact_mod_cast Nat.mod_lt m (by positivity)
  have habove : 2 ^ k < 2 * (m % 2 ^ k) ↔ 1 / 2 < ((m % 2 ^ k : ℕ) : ℚ) / 2 ^ k := by
    rw [lt_div_iff₀ hpos, one_div_mul_eq_div, div_lt_iff₀' two_pos]
    exact_mod_cast Iff.rfl
  have hmid : 2 * (m % 2 ^ k) = 2 ^ k ↔ ((m % 2 ^ k : ℕ) : ℚ) / 2 ^ k = 1 / 2 := by
    rw [div_eq_div_iff hpos.ne' two_ne_zero, one_mul, mul_comm _ (2 : ℚ)]
    exact_mod_cast Iff.rfl
  rw [hm]
  unfold roundShift
  dsimp only
  split
  next hup =>
    rw [habove, hmid] at hup
    obtain hgt | ⟨heq, hodd⟩ := hup
    · exact isNearestEven_up hlt hgt.le fun heq => absurd heq hgt.ne'
    · exact isNearestEven_up hlt heq.ge fun _ => by omega
  next hdown =>
    rw [habove, hmid, not_or, not_lt, not_and] at hdown
    exact isNearestEven_down (by positivity) hdown.1 fun heq => by
      have := hdown.2 heq
      omega

/-- No whole number is nearer to `r` than `q`; where another is as near, `q` is even. -/
theorem IsNearestEven.nearest {q : ℕ} {r : ℚ} (h : IsNearestEven q r) (z : ℤ) :
    |(q : ℚ) - r| ≤ |(z : ℚ) - r| ∧
    (|(q : ℚ) - r| = |(z : ℚ) - r| → (z : ℚ) ≠ q → q % 2 = 0) := by
  obtain ⟨hhalf, htie⟩ := h
  by_cases hz : z = (q : ℤ)
  · simp [hz]
  have hdist : (1 : ℚ) ≤ |(z : ℚ) - q| := by
    exact_mod_cast Int.one_le_abs (sub_ne_zero.2 hz)
  have htri : |(z : ℚ) - q| ≤ |(z : ℚ) - r| + |(q : ℚ) - r| := by
    rw [abs_sub_comm (q : ℚ) r]
    exact abs_sub_le _ _ _
  exact ⟨by linarith, fun heq _ => htie (by linarith)⟩

/-! ### The rounding -/

/-- How many binary places the rounding drops of a magnitude `m × 2^e`. -/
def roundPlaces (m : ℕ) (e : ℤ) : ℤ := max ((Nat.log2 m : ℤ) - 23) (-149 - e)

/-- The significand that is left. -/
def roundMant (m : ℕ) (e : ℤ) : ℕ :=
  if 0 ≤ roundPlaces m e then roundShift m (roundPlaces m e).toNat
  else m * 2 ^ (-roundPlaces m e).toNat

/-- The binade it stands in. -/
def roundBinade (m : ℕ) (e : ℤ) : ℕ := (e + roundPlaces m e + 149).toNat

theorem f32Round_eq (neg : Bool) {m : ℕ} (hm : m ≠ 0) (e : ℤ) : f32Round neg m e =
    f32Pattern neg (min (roundBinade m e * 2 ^ 23 + roundMant m e) 0x7F800000) :=
  if_neg hm

theorem f32Round_zero (neg : Bool) (e : ℤ) : f32Round neg 0 e = f32Pattern neg 0 := rfl

theorem roundBinade_cast (m : ℕ) (e : ℤ) : (roundBinade m e : ℤ) = e + roundPlaces m e + 149 := by
  have : -149 - e ≤ roundPlaces m e := le_max_right _ _
  unfold roundBinade
  omega

/-- The magnitude in units of its binade is the exact significand, dropped places included. -/
theorem magnitude_eq (m : ℕ) (e : ℤ) :
    (m : ℚ) * 2 ^ e = m * 2 ^ (-roundPlaces m e) * 2 ^ (roundBinade m e - 149 : ℤ) := by
  rw [mul_assoc, ← zpow_add₀ two_ne_zero, roundBinade_cast]
  congr 2
  ring

theorem roundMant_isNearestEven (m : ℕ) (e : ℤ) :
    IsNearestEven (roundMant m e) (m * 2 ^ (-roundPlaces m e)) := by
  unfold roundMant
  generalize roundPlaces m e = k
  split
  next hk =>
    obtain ⟨k, rfl⟩ := Int.eq_ofNat_of_zero_le hk
    rw [zpow_neg, zpow_natCast, ← div_eq_mul_inv]
    exact roundShift_isNearestEven m k
  next hk =>
    obtain ⟨j, hj⟩ := Int.eq_ofNat_of_zero_le (show 0 ≤ -k by omega)
    rw [hj, zpow_natCast]
    exact_mod_cast isNearestEven_natCast (m * 2 ^ j)

/-- The exact significand is below `2^24`. -/
theorem significand_lt (m : ℕ) (e : ℤ) : (m : ℚ) * 2 ^ (-roundPlaces m e) < 2 ^ 24 := by
  have hk : (Nat.log2 m : ℤ) - 23 ≤ roundPlaces m e := le_max_left _ _
  have hm : (m : ℚ) < 2 ^ (Nat.log2 m + 1) := by exact_mod_cast Nat.lt_log2_self
  calc (m : ℚ) * 2 ^ (-roundPlaces m e)
      < 2 ^ (Nat.log2 m + 1) * 2 ^ (-roundPlaces m e) := by gcongr
    _ = 2 ^ ((Nat.log2 m + 1 : ℕ) - roundPlaces m e : ℤ) := by
        rw [sub_eq_add_neg, zpow_add₀ two_ne_zero, zpow_natCast]
    _ ≤ 2 ^ (24 : ℤ) := by
        gcongr
        · norm_num
        · omega
    _ = 2 ^ 24 := by norm_num

/-- Above the lowest binade it is `2^23` or more. -/
theorem le_significand {m : ℕ} (hm : m ≠ 0) {e : ℤ} (hn : roundBinade m e ≠ 0) :
    (2 : ℚ) ^ 23 ≤ m * 2 ^ (-roundPlaces m e) := by
  have hk : roundPlaces m e = Nat.log2 m - 23 := by
    have := roundBinade_cast m e
    unfold roundPlaces at *
    omega
  have hle : (2 : ℚ) ^ Nat.log2 m ≤ m := by exact_mod_cast Nat.log2_self_le hm
  calc (2 : ℚ) ^ 23 = 2 ^ Nat.log2 m * 2 ^ (-roundPlaces m e) := by
        rw [hk, ← zpow_natCast (2 : ℚ) (Nat.log2 m), ← zpow_add₀ two_ne_zero]
        norm_num
    _ ≤ m * 2 ^ (-roundPlaces m e) := by gcongr

theorem roundMant_le (m : ℕ) (e : ℤ) : roundMant m e ≤ 2 ^ 24 := by
  have hdist := (abs_le.1 (roundMant_isNearestEven m e).1).2
  have hlt := significand_lt m e
  have : (roundMant m e : ℚ) < (2 ^ 24 + 1 : ℕ) := by
    push_cast
    linarith
  exact Nat.lt_succ_iff.1 (by exact_mod_cast this)

theorem le_roundMant {m : ℕ} (hm : m ≠ 0) {e : ℤ} (hn : roundBinade m e ≠ 0) :
    2 ^ 23 ≤ roundMant m e := by
  have hdist := (abs_le.1 (roundMant_isNearestEven m e).1).1
  have hge := le_significand hm hn
  have : ((2 ^ 23 : ℕ) : ℚ) < roundMant m e + 1 := by
    push_cast
    linarith
  exact Nat.lt_succ_iff.1 (by exact_mod_cast this)

/-- A finite result is the rounded significand in its binade. -/
theorem f32Round_of_finite {neg : Bool} {m : ℕ} (hm : m ≠ 0) {e : ℤ}
    (hfin : f32IsFinite (f32Round neg m e) = true) :
    roundBinade m e * 2 ^ 23 + roundMant m e < 0x7F800000 ∧
    f32Round neg m e = f32Pattern neg (roundBinade m e * 2 ^ 23 + roundMant m e) := by
  rw [f32Round_eq neg hm] at hfin ⊢
  rw [f32IsFinite_f32Pattern neg (by omega)] at hfin
  have hlt : roundBinade m e * 2 ^ 23 + roundMant m e < 0x7F800000 := by omega
  exact ⟨hlt, by rw [min_eq_left hlt.le]⟩

/-- Scaled to a unit `u`: nothing that is a whole number of units, or lies below `b ≤ r` units, `b` whole,
is nearer to `r` units than the `q` nearest to `r`. -/
theorem IsNearestEven.nearest_scaled {q : ℕ} {r u y : ℚ} {b : ℤ} (h : IsNearestEven q r) (hu : 0 < u)
    (hy : (∃ z : ℤ, y = z * u) ∨ (b ≤ r ∧ y < b * u)) :
    |q * u - r * u| ≤ |y - r * u| ∧ (|q * u - r * u| = |y - r * u| → y ≠ q * u → q % 2 = 0) := by
  have hscale : ∀ x : ℚ, |x * u - r * u| = |x - r| * u := fun x => by
    rw [← sub_mul, abs_mul, abs_of_pos hu]
  obtain ⟨z, rfl⟩ | ⟨hb, hlt⟩ := hy
  · obtain ⟨hle, htie⟩ := h.nearest z
    rw [hscale, hscale]
    exact ⟨mul_le_mul_of_nonneg_right hle hu.le,
      fun heq hne => htie (mul_right_cancel₀ hu.ne' heq) fun h => hne (by rw [h])⟩
  · have hstrict : |q * u - r * u| < |y - r * u| := by
      calc |q * u - r * u| = |q - r| * u := hscale q
        _ ≤ |b - r| * u := mul_le_mul_of_nonneg_right (h.nearest b).1 hu.le
        _ = r * u - b * u := by rw [abs_of_nonpos (by linarith)]; ring
        _ < r * u - y := by linarith
        _ ≤ |y - r * u| := by rw [abs_sub_comm]; exact le_abs_self _
    exact ⟨hstrict.le, fun heq => absurd heq hstrict.ne⟩

/-- The distance to a signed number is that of the other one, its sign turned, to the magnitude. -/
theorem abs_sub_signFactor_mul (neg : Bool) (y x : ℚ) :
    |y - signFactor neg * x| = |signFactor neg * y - x| := by
  rw [← one_mul |y - _|, ← abs_signFactor neg, ← abs_mul, mul_sub, ← mul_assoc, signFactor_mul_self,
    one_mul]

/-- With its sign turned a value is still a whole multiple of the binade's unit, or below the binade of
the exact significand. -/
theorem signed_multiple_or_below {m : ℕ} (hm : m ≠ 0) (e : ℤ) (neg : Bool) (w : Word) :
    (∃ z : ℤ, signFactor neg * f32Value w = z * 2 ^ (roundBinade m e - 149 : ℤ)) ∨
    (((2 ^ 23 : ℤ) : ℚ) ≤ m * 2 ^ (-roundPlaces m e) ∧
      signFactor neg * f32Value w < (2 ^ 23 : ℤ) * 2 ^ (roundBinade m e - 149 : ℤ)) := by
  obtain ⟨z, hz⟩ | ⟨hn, hsmall⟩ := f32Value_multiple_or_small w (roundBinade m e)
  · left
    refine ⟨(if neg then -1 else 1) * z, ?_⟩
    rw [hz]
    cases neg <;> simp [signFactor]
  · right
    refine ⟨by exact_mod_cast le_significand hm hn, ?_⟩
    calc signFactor neg * f32Value w ≤ |signFactor neg * f32Value w| := le_abs_self _
      _ = |f32Value w| := by rw [abs_mul, abs_signFactor, one_mul]
      _ < (2 ^ 23 : ℤ) * 2 ^ (roundBinade m e - 149 : ℤ) := by exact_mod_cast hsmall

/-- Settles O47: the significand is the nearest whole number of units of the binade, and every finite
value is a whole number of them or below the binade. -/
theorem roundingIsNearest : Obligations.RoundingIsNearest := by
  intro neg m e w hfin _ x
  rcases eq_or_ne m 0 with rfl | hm
  · have hx : x = 0 := by simp [x]
    rw [f32Round_zero, f32Value_zero, hx]
    exact ⟨by simp, fun _ _ => f32Pattern_lastBit neg (by decide)⟩
  · obtain ⟨hlt, hround⟩ := f32Round_of_finite hm hfin
    have hx : x = signFactor neg *
        (m * 2 ^ (-roundPlaces m e) * 2 ^ (roundBinade m e - 149 : ℤ)) := by
      rw [← magnitude_eq, ← mul_assoc]
      rfl
    have hbinade : roundBinade m e = 0 ∨ 2 ^ 23 ≤ roundMant m e :=
      or_iff_not_imp_left.2 (le_roundMant hm)
    have hval := f32Value_f32Pattern_binade neg hlt (roundMant_le m e) hbinade
    have hturned : signFactor neg * f32Value (f32Round neg m e) =
        roundMant m e * 2 ^ (roundBinade m e - 149 : ℤ) := by
      rw [hround, hval, ← mul_assoc, ← mul_assoc, signFactor_mul_self, one_mul]
    obtain ⟨hle, htie⟩ := (roundMant_isNearestEven m e).nearest_scaled
      (zpow_pos two_pos (roundBinade m e - 149 : ℤ)) (signed_multiple_or_below hm e neg w)
    rw [hx, abs_sub_signFactor_mul, abs_sub_signFactor_mul, hturned]
    refine ⟨hle, fun heq hne => ?_⟩
    have heven := htie heq fun h => hne ?_
    · rw [hround, f32Pattern_lastBit neg (by omega)]
      simp only [decide_eq_false_iff_not]
      omega
    · have hsign : signFactor neg ≠ 0 := fun h => by simpa [h] using abs_signFactor neg
      exact mul_left_cancel₀ hsign (h.trans hturned.symm)

end Sys2Proof.Machine
end

section
/-! SUPPORT. The state after reset (10 R34, 70 R330), and the refused transactions on the DMA channel (10
R15, 40 R123). -/

namespace Sys2Proof.Machine

/-- Settles O56: the fields of `State.reset`, read off. -/
theorem resetLeavesTransportStopped : Obligations.ResetLeavesTransportStopped :=
  ⟨rfl, rfl, rfl, rfl, rfl, rfl, rfl⟩

theorem reset_inv : State.reset.inv = true := by decide

theorem reset_engineInv : State.reset.engineInv = true := by decide

/-- Settles O57: both invariants evaluated at the reset state. -/
theorem resetMeetsInvariants : Obligations.ResetMeetsInvariants := ⟨reset_inv, reset_engineInv⟩

theorem onChannel_own {s : State} {ch : BitVec 4} (h : ch = s.cfg.dmaChannel) (r : Res) :
    s.onChannel ch r = r := if_pos h

theorem onChannel_other {s : State} {ch : BitVec 4} (h : ch ≠ s.cfg.dmaChannel) (r : Res) :
    s.onChannel ch r = .refused .otherDmaChannel := if_neg h

/-- Settles O27: the four writes of `CS` test the reserved bits before anything else, and all fifteen
transactions test the channel before that. -/
theorem channelWriteRefusals : Obligations.ChannelWriteRefusals := by
  intro s ch v
  refine ⟨fun hch hv => ?_, fun hch => ?_⟩
  · have hrefused (r : Res) :
        s.onChannel ch (if v &&& dmaCsReserved ≠ 0#32 then .refused .reservedBit else r) =
          .refused .reservedBit :=
      (onChannel_own hch _).trans (if_pos hv)
    exact ⟨hrefused _, hrefused _, hrefused _, hrefused _⟩
  · have hrefused := onChannel_other hch
    simp only [List.forall_mem_cons, List.not_mem_nil, false_implies, implies_true, and_true]
    and_intros <;> exact hrefused _

end Sys2Proof.Machine
end

section
/-! SUPPORT. What a step can do: to the registers of the DMA channel, move by move, and to everything else,
so far as the machine's invariant tells (10 R14 to R30, 60 R307, R316). Followed once through every
operation that a step is made of. -/

namespace Sys2Proof.Machine

/-! ### The moves of the DMA channel -/

/-- Everything a step can do to the registers of the DMA channel (42 R163 to R174, R177). -/
inductive DmaState.Moves (d : DmaState) : DmaState → Prop
  | stay : d.Moves d
  | load (w : Desc) : d.Moves { d with
      ti := w.ti, sourceAd := w.src, destAd := w.dst, txfrLen := w.len, stride := w.stride
      nextconbk := w.next, phase := .loaded }
  | halt : d.Moves { d with active := false, phase := .idle }
  | readBeat (w : Word) : d.Moves { d with latch := w, phase := .latched }
  | advance (hphase : d.phase = .latched) : d.Moves { d with
      txfrLen := 0#32, endF := true, conblkAd := d.nextconbk
      intF := d.intF || tiInten d.ti, phase := .needLoad }
  | fault : d.Moves { d with debugErr := d.debugErr ||| 4#3 }
  | reset : d.Moves { d with
      active := false, endF := false, intF := false, opts := 0#32, conblkAd := 0#32, ti := 0#32
      sourceAd := 0#32, destAd := 0#32, txfrLen := 0#32, stride := 0#32, nextconbk := 0#32
      debugErr := 0#3, phase := .idle, latch := 0#32 }
  | abort (v : Word) : d.Moves { d.abandon.clearEvents v with
      active := v.getLsbD 0, opts := v &&& dmaCsOpts }
  | go (v : Word) : d.Moves { d.clearEvents v with
      active := true, opts := v &&& dmaCsOpts
      phase := if d.phase = .idle then .needLoad else d.phase }
  | pause (v : Word) : d.Moves { d.clearEvents v with active := false }
  | setcb (a : Word) (hactive : d.active = false) : d.Moves { d with conblkAd := a, phase := .needLoad }
  | clearDebug (v : Word) : d.Moves { d with debugErr := d.debugErr &&& ~~~(v.extractLsb' 0 3) }

theorem DmaState.inv_iff (d : DmaState) :
    d.inv = true ↔ d.opts &&& ~~~dmaCsOpts = 0#32 ∧ d.debugErr &&& 3#3 = 0#3 := by
  simp [DmaState.inv]

/-- An abort leaves the position alone where no descriptor is loaded, and else moves it to `next`. -/
theorem DmaState.abandon_eq (d : DmaState) :
    d.abandon = d ∨
      (d.isLoaded = true ∧ d.abandon = { d with conblkAd := d.nextconbk, phase := .needLoad }) := by
  unfold DmaState.abandon
  split
  · exact .inr ⟨‹_›, rfl⟩
  · exact .inl rfl

/-- While the channel is active its position stays, follows the loaded `next`, or is reset. -/
theorem DmaState.Moves.position {d e : DmaState} (h : d.Moves e) (hactive : d.active = true) :
    e.conblkAd = d.conblkAd ∨
    (d.isLoaded = true ∧ e.conblkAd = d.nextconbk ∧ e.phase = .needLoad) ∨
    (e.conblkAd = 0#32 ∧ e.phase = .idle ∧ e.active = false) := by
  cases h with
  | stay | load | halt | readBeat | fault | go | pause | clearDebug => exact .inl rfl
  | advance hphase => exact .inr (.inl ⟨by simp [DmaState.isLoaded, hphase], rfl, rfl⟩)
  | reset => exact .inr (.inr ⟨rfl, rfl, rfl⟩)
  | abort v =>
    obtain heq | ⟨hloaded, heq⟩ := d.abandon_eq <;> rw [heq]
    · exact .inl rfl
    · exact .inr (.inl ⟨hloaded, rfl, rfl⟩)
  | setcb a hidle => exact absurd (hactive.symm.trans hidle) (by decide)

/-- A masked word has no bit outside the mask. -/
theorem and_mask_and_not_mask (v mask : Word) : v &&& mask &&& ~~~mask = 0#32 := by
  rw [BitVec.and_assoc, BitVec.and_not_self]
  exact BitVec.and_zero

theorem readError_only : ∀ e : BitVec 3, e &&& 3#3 = 0#3 → (e ||| 4#3) &&& 3#3 = 0#3 := by decide

/-- Every move stores only option fields and raises only `READ_ERROR`. -/
theorem DmaState.Moves.inv {d e : DmaState} (h : d.Moves e) (hinv : d.inv = true) : e.inv = true := by
  rw [DmaState.inv_iff] at hinv ⊢
  obtain ⟨hopts, herr⟩ := hinv
  cases h with
  | stay | load | halt | readBeat | advance | pause | setcb => exact ⟨hopts, herr⟩
  | fault => exact ⟨hopts, readError_only _ herr⟩
  | reset => exact ⟨by decide, by decide⟩
  | abort v =>
    refine ⟨and_mask_and_not_mask v _, ?_⟩
    obtain heq | ⟨-, heq⟩ := d.abandon_eq <;> rw [heq] <;> exact herr
  | go v => exact ⟨and_mask_and_not_mask v _, herr⟩
  | clearDebug v =>
    refine ⟨hopts, ?_⟩
    show d.debugErr &&& _ &&& 3#3 = 0#3
    rw [BitVec.and_assoc, BitVec.and_comm _ 3#3, ← BitVec.and_assoc, herr]
    exact BitVec.zero_and

/-! ### The invariant in parts -/

/-- The invariant of everything outside the DMA channel's registers. -/
def State.OutsideInv (s : State) : Prop :=
  Memory.wf s.mem = true ∧ Memory.inside s.cfg s.mem = true ∧ s.pcm.inv s.cfg = true ∧
  s.gpio.inv = true ∧ s.host.inv s.cfg = true ∧ s.env.inv = true ∧ s.faultsNamed = true

theorem State.inv_iff (s : State) : s.inv = true ↔ s.OutsideInv ∧ s.dma.inv = true := by
  simp only [State.inv, State.OutsideInv, Bool.and_eq_true]
  tauto

/-- The invariant of the peripheral, part by part (10 R19, R20, R24 to R27). -/
structure PcmState.Sound (c : Cfg) (p : PcmState) : Prop where
  rxfifo : p.rxfifo.length ≤ c.fifoDepth
  txfifo : p.txfifo.length ≤ c.fifoDepth
  csStored : p.csStored &&& ~~~csAStoredMask = 0#32
  modeA : p.modeA &&& (modePacked ||| modeReserved) = 0#32
  rxcA : widthsOk p.rxcA = true
  txcA : widthsOk p.txcA = true
  dreqA : p.dreqA &&& dreqReserved = 0#32
  intenA : p.intenA &&& intenReserved = 0#32

theorem PcmState.inv_iff (c : Cfg) (p : PcmState) : p.inv c = true ↔ p.Sound c := by
  simp only [PcmState.inv, Bool.and_eq_true, decide_eq_true_eq, beq_iff_eq, and_assoc]
  exact ⟨fun ⟨hrx, htx, hcs, hmode, hrxc, htxc, hdreq, hinten⟩ =>
      ⟨hrx, htx, hcs, hmode, hrxc, htxc, hdreq, hinten⟩,
    fun ⟨hrx, htx, hcs, hmode, hrxc, htxc, hdreq, hinten⟩ =>
      ⟨hrx, htx, hcs, hmode, hrxc, htxc, hdreq, hinten⟩⟩

theorem GpioState.inv_iff (g : GpioState) : g.inv = true ↔ g.fsel.length = 6 ∧ g.pull.length = 64 := by
  simp only [GpioState.inv, Bool.and_eq_true, decide_eq_true_eq]

theorem HostState.inv_iff (c : Cfg) (h : HostState) : h.inv c = true ↔
    h.stageIn.ch0.length = c.blockSizeA ∧ h.stageIn.ch1.length = c.blockSizeA ∧
    h.stageOut.ch0.length = c.blockSizeA ∧ h.stageOut.ch1.length = c.blockSizeA ∧
    (!h.inited || h.everInited) = true := by
  simp only [HostState.inv, Bool.and_eq_true, decide_eq_true_eq, and_assoc]

/-! ### The relations between a state and its successor -/

/-- From `s` to `t` the DMA channel is untouched, and what the invariant says of the rest is kept. -/
structure State.KeepsChannel (s t : State) : Prop where
  dma : t.dma = s.dma
  outside : s.OutsideInv → t.OutsideInv

/-- From `s` to `t` the DMA channel makes a move, and what the invariant says of the rest is kept. -/
structure State.StepsTo (s t : State) : Prop where
  dma : s.dma.Moves t.dma
  outside : s.OutsideInv → t.OutsideInv

/-- Whatever next state the outcome `r` gives is a successor of `s`. -/
def State.OutcomeStepsTo (s : State) (r : Res) : Prop := ∀ t, r = .next t → s.StepsTo t

/-- An update of fields of which the invariant says nothing. -/
theorem State.KeepsChannel.of_eq {s t : State} (hdma : t.dma = s.dma)
    (hinv : t.OutsideInv = s.OutsideInv) : s.KeepsChannel t :=
  ⟨hdma, hinv.mpr⟩

theorem State.KeepsChannel.refl (s : State) : s.KeepsChannel s := .of_eq rfl rfl

theorem State.KeepsChannel.trans {s t u : State} (hst : s.KeepsChannel t) (htu : t.KeepsChannel u) :
    s.KeepsChannel u :=
  ⟨htu.dma.trans hst.dma, htu.outside ∘ hst.outside⟩

theorem State.KeepsChannel.stepsTo {s t : State} (h : s.KeepsChannel t) : s.StepsTo t :=
  ⟨h.dma ▸ .stay, h.outside⟩

theorem State.KeepsChannel.andThen {s t u : State} (hst : s.KeepsChannel t) (htu : t.StepsTo u) :
    s.StepsTo u :=
  ⟨hst.dma ▸ htu.dma, htu.outside ∘ hst.outside⟩

/-- A move of the channel alone. -/
theorem stepsTo_withDma {s : State} {d : DmaState} (h : s.dma.Moves d) : s.StepsTo (s.withDma d) :=
  ⟨h, id⟩

theorem State.StepsTo.inv {s t : State} (h : s.StepsTo t) (hs : s.inv = true) : t.inv = true := by
  rw [State.inv_iff] at hs ⊢
  exact ⟨h.outside hs.1, h.dma.inv hs.2⟩

/-! ### Updates that keep the invariant of one part -/

theorem keepsChannel_withPcm {s : State} {p : PcmState}
    (h : s.pcm.Sound s.cfg → p.Sound s.cfg) : s.KeepsChannel (s.withPcm p) :=
  ⟨rfl, fun ⟨hwf, hinside, hpcm, hrest⟩ =>
    ⟨hwf, hinside, (p.inv_iff s.cfg).2 (h ((s.pcm.inv_iff s.cfg).1 hpcm)), hrest⟩⟩

theorem keepsChannel_withGpio {s : State} {g : GpioState} (h : s.gpio.inv = true → g.inv = true) :
    s.KeepsChannel (s.withGpio g) :=
  ⟨rfl, fun ⟨hwf, hinside, hpcm, hgpio, hrest⟩ => ⟨hwf, hinside, hpcm, h hgpio, hrest⟩⟩

theorem keepsChannel_withHost {s : State} {h : HostState}
    (hinv : s.host.inv s.cfg = true → h.inv s.cfg = true) (hfault : h.loopFault = s.host.loopFault) :
    s.KeepsChannel (s.withHost h) := by
  refine ⟨rfl, fun ⟨hwf, hinside, hpcm, hgpio, hhost, henv, hnamed⟩ =>
    ⟨hwf, hinside, hpcm, hgpio, hinv hhost, henv, ?_⟩⟩
  simpa only [State.faultsNamed, State.withHost_host, State.withHost_dmaFault, hfault] using hnamed

theorem keepsChannel_withEnv {s : State} {e : EnvState} (h : s.env.inv = true → e.inv = true) :
    s.KeepsChannel (s.withEnv e) :=
  ⟨rfl, fun ⟨hwf, hinside, hpcm, hgpio, hhost, henv, hnamed⟩ =>
    ⟨hwf, hinside, hpcm, hgpio, hhost, h henv, hnamed⟩⟩

theorem keepsChannel_writeWord {s : State} {a : Nat} (v : Word) (ha : s.cfg.inBlock a 4 = true) :
    s.KeepsChannel (s.withMem (Memory.writeWord s.mem a v)) :=
  ⟨rfl, fun ⟨hwf, hinside, hrest⟩ =>
    ⟨Memory.writeWord_wf a v hwf, inside_writeWord v hinside ha, hrest⟩⟩

theorem keepsChannel_withOps (s : State) (ops : List HostOp) : s.KeepsChannel (s.withOps ops) :=
  .of_eq rfl rfl

theorem keepsChannel_returns (s : State) (r : HostResult) : s.KeepsChannel (s.returns r) :=
  .of_eq rfl rfl

theorem keepsChannel_drew (s : State) (n : Nat) : s.KeepsChannel (s.drew n) := .of_eq rfl rfl

theorem State.KeepsChannel.withOps {s t : State} (h : s.KeepsChannel t) (ops : List HostOp) :
    s.KeepsChannel (t.withOps ops) :=
  h.trans (keepsChannel_withOps t ops)

theorem State.KeepsChannel.drew {s t : State} (h : s.KeepsChannel t) (n : Nat) :
    s.KeepsChannel (t.drew n) :=
  h.trans (keepsChannel_drew t n)

theorem keepsChannel_recordLoopFault (s : State) : s.KeepsChannel s.recordLoopFault := by
  refine ⟨rfl, fun ⟨hwf, hinside, hpcm, hgpio, hhost, henv, hnamed⟩ =>
    ⟨hwf, hinside, hpcm, hgpio, hhost, henv, ?_⟩⟩
  simp only [State.faultsNamed, Bool.and_eq_true] at hnamed ⊢
  exact ⟨hnamed.1, rfl⟩

/-- An engine fault sets `READ_ERROR` and records one of the engine's two reasons. -/
theorem stepsTo_recordDmaFault (s : State) {f : Fault}
    (hf : f = .dmaBusError ∨ f = .dmaBadDescriptorAddress) : s.StepsTo (s.recordDmaFault f) := by
  refine ⟨.fault, fun ⟨hwf, hinside, hpcm, hgpio, hhost, henv, hnamed⟩ =>
    ⟨hwf, hinside, hpcm, hgpio, hhost, henv, ?_⟩⟩
  simp only [State.faultsNamed, Bool.and_eq_true] at hnamed ⊢
  refine ⟨?_, hnamed.2⟩
  obtain rfl | rfl := hf <;> rfl

/-! ### The queues and registers of the peripheral -/

theorem length_le_of_eq_cons {l r : List Word} {w : Word} {n : Nat} (h : l = w :: r)
    (hl : l.length ≤ n) : r.length ≤ n := by
  rw [h, List.length_cons] at hl
  exact Nat.le_of_succ_le hl

theorem keepsChannel_popRx {s : State} {w : Word} {r : List Word} (h : s.pcm.rxfifo = w :: r) :
    s.KeepsChannel (s.withPcm { s.pcm with rxfifo := r }) :=
  keepsChannel_withPcm fun hpcm => { hpcm with
    rxfifo := length_le_of_eq_cons h hpcm.rxfifo }

theorem keepsChannel_popTx {s : State} {w : Word} {r : List Word} (h : s.pcm.txfifo = w :: r) :
    s.KeepsChannel (s.withPcm { s.pcm with txfifo := r }) :=
  keepsChannel_withPcm fun hpcm => { hpcm with
    txfifo := length_le_of_eq_cons h hpcm.txfifo }

theorem keepsChannel_pushRx {s : State} (v : Word) (h : s.pcm.rxfifo.length < s.cfg.fifoDepth) :
    s.KeepsChannel (s.withPcm { s.pcm with rxfifo := s.pcm.rxfifo ++ [v] }) :=
  keepsChannel_withPcm fun hpcm => { hpcm with rxfifo := by simpa using h }

theorem keepsChannel_pushTx {s : State} (v : Word) (h : s.pcm.txfifo.length < s.cfg.fifoDepth) :
    s.KeepsChannel (s.withPcm { s.pcm with txfifo := s.pcm.txfifo ++ [v] }) :=
  keepsChannel_withPcm fun hpcm => { hpcm with txfifo := by simpa using h }

theorem length_ite_nil_le {p : Prop} [Decidable p] {l : List Word} {n : Nat} (h : l.length ≤ n) :
    (if p then [] else l).length ≤ n := by
  split
  · exact Nat.zero_le n
  · exact h

/-- A write of `CS_A` stores the read-write fields only and leaves each queue or empties it. -/
theorem keepsChannel_writeCs (s : State) (v : Word) : s.KeepsChannel (s.withPcm (s.pcm.writeCs v)) :=
  keepsChannel_withPcm fun hpcm => { hpcm with
    rxfifo := length_ite_nil_le hpcm.rxfifo
    txfifo := length_ite_nil_le hpcm.txfifo
    csStored := and_mask_and_not_mask v csAStoredMask }

theorem keepsChannel_modeA {s : State} {v : Word} (hpacked : v &&& modePacked = 0#32)
    (hreserved : v &&& modeReserved = 0#32) : s.KeepsChannel (s.withPcm { s.pcm with modeA := v }) :=
  keepsChannel_withPcm fun hpcm => { hpcm with
    modeA := by rw [BitVec.and_or_distrib_left, hpacked, hreserved, BitVec.or_zero] }

theorem keepsChannel_rxcA {s : State} {v : Word} (h : widthsOk v = true) :
    s.KeepsChannel (s.withPcm { s.pcm with rxcA := v }) :=
  keepsChannel_withPcm fun hpcm => { hpcm with rxcA := h }

theorem keepsChannel_txcA {s : State} {v : Word} (h : widthsOk v = true) :
    s.KeepsChannel (s.withPcm { s.pcm with txcA := v }) :=
  keepsChannel_withPcm fun hpcm => { hpcm with txcA := h }

theorem keepsChannel_dreqA {s : State} {v : Word} (h : v &&& dreqReserved = 0#32) :
    s.KeepsChannel (s.withPcm { s.pcm with dreqA := v }) :=
  keepsChannel_withPcm fun hpcm => { hpcm with dreqA := h }

theorem keepsChannel_intenA {s : State} {v : Word} (h : v &&& intenReserved = 0#32) :
    s.KeepsChannel (s.withPcm { s.pcm with intenA := v }) :=
  keepsChannel_withPcm fun hpcm => { hpcm with intenA := h }

/-! ### Accesses to the FIFO port and to memory -/

theorem popRx_keepsChannel {s t : State} {w : Word} (h : s.popRx = .ok (w, t)) : s.KeepsChannel t := by
  obtain ⟨r, hfifo, rfl⟩ := popRx_ok h
  exact keepsChannel_popRx hfifo

theorem pushTx_keepsChannel {s t : State} {v : Word} (h : s.pushTx v = .ok t) : s.KeepsChannel t := by
  obtain ⟨hroom, rfl⟩ := pushTx_ok h
  exact keepsChannel_pushTx v hroom

theorem busRead_keepsChannel {s t : State} {a w : Word} (h : s.busRead a = .ok (w, t)) :
    s.KeepsChannel t := by
  obtain ⟨-, r, hfifo, rfl⟩ | ⟨-, -, -, rfl⟩ := busRead_ok h
  · exact keepsChannel_popRx hfifo
  · exact .refl _

theorem busWrite_keepsChannel {s t : State} {a v : Word} (h : s.busWrite a v = .ok t) :
    s.KeepsChannel t := by
  obtain ⟨-, hroom, rfl⟩ | ⟨-, hword, rfl⟩ := busWrite_ok h
  · exact keepsChannel_pushTx v hroom
  · exact keepsChannel_writeWord v ((wordInBlock_iff s a).1 hword).2

theorem hostRead_keepsChannel {s t : State} {a w : Word} (h : s.hostRead a = .ok (w, t)) :
    s.KeepsChannel t := by
  obtain ⟨-, -, r, hfifo, rfl⟩ | ⟨-, -, -, rfl⟩ := hostRead_ok h
  · exact keepsChannel_popRx hfifo
  · split
    · exact .of_eq rfl rfl
    · exact .refl s

theorem hostWrite_keepsChannel {s t : State} {a v : Word} (h : s.hostWrite a v = .ok t) :
    s.KeepsChannel t := by
  obtain ⟨-, -, hroom, rfl⟩ | ⟨-, hword, -, -, rfl⟩ := hostWrite_ok h
  · exact keepsChannel_pushTx v hroom
  · exact keepsChannel_writeWord v ((wordInBlock_iff s a).1 hword).2

/-! ### Outcomes -/

theorem outcomeStepsTo_next {s t : State} (h : s.StepsTo t) : s.OutcomeStepsTo (.next t) := by
  rintro _ ⟨⟩
  exact h

theorem outcomeStepsTo_keeps {s t : State} (h : s.KeepsChannel t) : s.OutcomeStepsTo (.next t) :=
  outcomeStepsTo_next h.stepsTo

theorem outcomeStepsTo_refused (s : State) (r : Refusal) : s.OutcomeStepsTo (.refused r) :=
  fun _ h => nomatch h

theorem outcomeStepsTo_ite {s : State} {p : Prop} [Decidable p] {r r' : Res}
    (h : p → s.OutcomeStepsTo r) (h' : ¬p → s.OutcomeStepsTo r') :
    s.OutcomeStepsTo (if p then r else r') := by
  split
  · exact h ‹_›
  · exact h' ‹_›

theorem outcomeStepsTo_refusedUnless {s : State} {p : Prop} [Decidable p] {r : Res}
    (h : p → s.OutcomeStepsTo r) (e : Refusal) : s.OutcomeStepsTo (if p then r else .refused e) :=
  outcomeStepsTo_ite h fun _ => outcomeStepsTo_refused s e

theorem outcomeStepsTo_refusedIf {s : State} {p : Prop} [Decidable p] {r : Res}
    (h : ¬p → s.OutcomeStepsTo r) (e : Refusal) : s.OutcomeStepsTo (if p then .refused e else r) :=
  outcomeStepsTo_ite (fun _ => outcomeStepsTo_refused s e) h

/-- What follows an update that keeps the channel. -/
theorem State.OutcomeStepsTo.after {s t : State} {r : Res} (hr : t.OutcomeStepsTo r)
    (h : s.KeepsChannel t) : s.OutcomeStepsTo r :=
  fun u hu => h.andThen (hr u hu)

theorem onChannel_stepsTo {s : State} {ch : BitVec 4} {r : Res} (h : s.OutcomeStepsTo r) :
    s.OutcomeStepsTo (s.onChannel ch r) :=
  outcomeStepsTo_refusedUnless (fun _ => h) _

theorem programs_stepsTo {s : State} {r : Res} (h : s.OutcomeStepsTo r) :
    s.OutcomeStepsTo (s.programs r) :=
  outcomeStepsTo_refusedUnless (fun _ => h) _

theorem issues_stepsTo {s : State} {i : Instr} {r : Res} (h : s.OutcomeStepsTo r) :
    s.OutcomeStepsTo (s.issues i r) :=
  fun t ht => h t (issues_next ht)

theorem regRead_stepsTo (s : State) (v : Word) : s.OutcomeStepsTo (s.regRead v) :=
  outcomeStepsTo_keeps (keepsChannel_returns s _)

theorem regReadFree_stepsTo (s : State) (v : Word) : s.OutcomeStepsTo (s.regReadFree v) :=
  outcomeStepsTo_keeps (.of_eq rfl rfl)

theorem portRead_stepsTo {s : State} {x : Access (Word × State)}
    (h : ∀ w t, x = .ok (w, t) → s.KeepsChannel t) : s.OutcomeStepsTo (portRead x) := by
  intro t ht
  obtain ⟨w, u, hx, rfl⟩ := portRead_next ht
  exact ((h w u hx).trans (keepsChannel_returns u _)).stepsTo

theorem portWrite_stepsTo {s : State} {x : Access State} (h : ∀ t, x = .ok t → s.KeepsChannel t) :
    s.OutcomeStepsTo (portWrite x) :=
  fun t ht => (h t (portWrite_next ht)).stepsTo

theorem walkWrite_stepsTo (s : State) (a v : Word) (rest : List HostOp) :
    s.OutcomeStepsTo (s.walkWrite a v rest) := by
  intro t ht
  obtain ⟨u, hu, rfl⟩ := walkWrite_next ht
  exact ((hostWrite_keepsChannel hu).withOps rest).stepsTo

/-! ### Instructions -/

theorem busFault_stepsTo (s : State) : s.StepsTo s.busFault := stepsTo_recordDmaFault s (.inl rfl)

theorem readBeat_stepsTo (s : State) : s.OutcomeStepsTo s.readBeat := by
  intro t ht
  obtain rfl | ⟨w, u, hu, rfl⟩ := readBeat_next ht
  · exact busFault_stepsTo s
  · exact (busRead_keepsChannel hu).andThen (stepsTo_withDma (.readBeat w))

theorem writeBeat_stepsTo {s : State} (h : s.dma.phase = .latched) : s.OutcomeStepsTo s.writeBeat := by
  intro t ht
  obtain rfl | ⟨u, hu, rfl⟩ := writeBeat_next ht
  · exact busFault_stepsTo s
  · have hkeeps := busWrite_keepsChannel hu
    exact hkeeps.andThen (stepsTo_withDma (.advance (hkeeps.dma ▸ h)))

theorem transferStep_stepsTo (s : State) (d : Desc) (dreq : Bool) :
    s.OutcomeStepsTo (s.transferStep d dreq) := by
  intro t ht
  obtain rfl | ⟨-, ⟨-, rfl⟩ | ⟨-, -, hbeat⟩ | ⟨hphase, hbeat⟩⟩ := transferStep_next ht
  · exact (State.KeepsChannel.refl _).stepsTo
  · exact stepsTo_withDma (.load d)
  · exact readBeat_stepsTo s t hbeat
  · exact writeBeat_stepsTo hphase t hbeat

/-- A write of `CS` that is not refused makes the one move of its instruction. -/
theorem dmaWrite_stepsTo {s : State} {d : DmaState} (h : s.dma.Moves d) (ch : BitVec 4) (v : Word) :
    s.OutcomeStepsTo (s.onChannel ch
      (if v &&& dmaCsReserved ≠ 0#32 then .refused .reservedBit else .next (s.withDma d))) :=
  onChannel_stepsTo (outcomeStepsTo_refusedIf (fun _ => outcomeStepsTo_next (stepsTo_withDma h)) _)

theorem execDmaSetcb_stepsTo (ch : BitVec 4) (a : Word) (s : State) :
    s.OutcomeStepsTo (execDmaSetcb ch a s) :=
  onChannel_stepsTo (outcomeStepsTo_refusedIf
    (fun hidle => outcomeStepsTo_next (stepsTo_withDma (.setcb a (by simpa using hidle)))) _)

theorem execPcmWrmode_stepsTo (v : Word) (s : State) : s.OutcomeStepsTo (execPcmWrmode v s) :=
  programs_stepsTo (outcomeStepsTo_refusedIf (fun hpacked => outcomeStepsTo_refusedIf
    (fun hreserved => outcomeStepsTo_keeps
      (keepsChannel_modeA (not_not.1 hpacked) (not_not.1 hreserved))) _) _)

theorem execPcmWrrxc_stepsTo (v : Word) (s : State) : s.OutcomeStepsTo (execPcmWrrxc v s) :=
  programs_stepsTo (outcomeStepsTo_refusedUnless
    (fun hwidth => outcomeStepsTo_keeps (keepsChannel_rxcA hwidth)) _)

theorem execPcmWrtxc_stepsTo (v : Word) (s : State) : s.OutcomeStepsTo (execPcmWrtxc v s) :=
  programs_stepsTo (outcomeStepsTo_refusedUnless
    (fun hwidth => outcomeStepsTo_keeps (keepsChannel_txcA hwidth)) _)

theorem execPcmWrdreq_stepsTo (v : Word) (s : State) : s.OutcomeStepsTo (execPcmWrdreq v s) :=
  programs_stepsTo (outcomeStepsTo_refusedIf
    (fun hreserved => outcomeStepsTo_keeps (keepsChannel_dreqA (not_not.1 hreserved))) _)

theorem execPcmWrinten_stepsTo (v : Word) (s : State) : s.OutcomeStepsTo (execPcmWrinten v s) :=
  programs_stepsTo (outcomeStepsTo_refusedIf
    (fun hreserved => outcomeStepsTo_keeps (keepsChannel_intenA (not_not.1 hreserved))) _)

theorem keepsChannel_fsel (s : State) (i : Nat) (w : Word) :
    s.KeepsChannel (s.withGpio { s.gpio with fsel := s.gpio.fsel.set i w }) :=
  keepsChannel_withGpio fun hinv => by
    rw [GpioState.inv_iff] at hinv ⊢
    exact ⟨(List.length_set ..).trans hinv.1, hinv.2⟩

theorem length_setPulls (pull : List Pull) (mask : BitVec 64) (mode : Pull) :
    (setPulls pull mask mode).length = 64 := by
  simp [setPulls]

theorem keepsChannel_setPulls (s : State) (mask : BitVec 64) (mode : Pull) :
    s.KeepsChannel (s.withGpio { s.gpio with pull := setPulls s.gpio.pull mask mode }) :=
  keepsChannel_withGpio fun hinv => by
    rw [GpioState.inv_iff] at hinv ⊢
    exact ⟨hinv.1, length_setPulls ..⟩

theorem exec_stepsTo (i : Instr) (s : State) : s.OutcomeStepsTo (exec i s) := by
  cases i with
  | xferRx d => exact transferStep_stepsTo s d _
  | xferTx d => exact transferStep_stepsTo s d _
  | xferOther d => exact outcomeStepsTo_refused s _
  | dmaRdcs ch | dmaRddbg ch => exact onChannel_stepsTo (regReadFree_stepsTo s _)
  | dmaReset ch v => exact dmaWrite_stepsTo .reset ch v
  | dmaAbort ch v => exact dmaWrite_stepsTo (.abort v) ch v
  | dmaGo ch v => exact dmaWrite_stepsTo (.go v) ch v
  | dmaPause ch v => exact dmaWrite_stepsTo (.pause v) ch v
  | dmaSetcb ch a => exact execDmaSetcb_stepsTo ch a s
  | dmaRdpos ch | dmaRdti ch | dmaRdsrc ch | dmaRddst ch | dmaRdlen ch | dmaRdstride ch | dmaRdnext ch =>
    exact onChannel_stepsTo (regRead_stepsTo s _)
  | dmaClrdbg ch v => exact onChannel_stepsTo (outcomeStepsTo_next (stepsTo_withDma (.clearDebug v)))
  | pcmRdcs | pcmRdintstc => exact regReadFree_stepsTo s _
  | pcmWrcs v => exact outcomeStepsTo_refusedIf (fun _ => outcomeStepsTo_keeps (keepsChannel_writeCs s v)) _
  | pcmRdfifo => exact programs_stepsTo (portRead_stepsTo fun _ _ => popRx_keepsChannel)
  | pcmWrfifo v => exact programs_stepsTo (portWrite_stepsTo fun _ => pushTx_keepsChannel)
  | pcmRdmode | pcmRdrxc | pcmRdtxc | pcmRddreq | pcmRdinten => exact regRead_stepsTo s _
  | pcmWrmode v => exact execPcmWrmode_stepsTo v s
  | pcmWrrxc v => exact execPcmWrrxc_stepsTo v s
  | pcmWrtxc v => exact execPcmWrtxc_stepsTo v s
  | pcmWrdreq v => exact execPcmWrdreq_stepsTo v s
  | pcmWrinten v => exact execPcmWrinten_stepsTo v s
  | pcmWrintstc v => exact outcomeStepsTo_keeps (.refl s)
  | gpioSetfn reg field f =>
    exact outcomeStepsTo_refusedUnless (fun _ => outcomeStepsTo_keeps (keepsChannel_fsel s _ _)) _
  | gpioRead bank => exact regReadFree_stepsTo s _
  | gpioSet bank v | gpioClr bank v | gpioPud v => exact outcomeStepsTo_keeps (.of_eq rfl rfl)
  | gpioPudclk bank v =>
    exact outcomeStepsTo_keeps ((keepsChannel_setPulls s _ _).drew 1)
  | cvtI2f w | cvtI2fV4 w0 w1 w2 w3 | cvtF2i w | cvtF2iV4 w0 w1 w2 w3 =>
    exact outcomeStepsTo_keeps (.of_eq rfl rfl)

theorem runEncoded_stepsTo (s : State) (e : Encoded) : s.OutcomeStepsTo (s.runEncoded e) := by
  intro t ht
  obtain ⟨i, -, hi⟩ := runEncoded_next ht
  exact exec_stepsTo i s t hi

/-! ### HOST's sequences -/

theorem Stage.set_length (t : Stage) (ch i : Nat) (w : Word) :
    (t.set ch i w).ch0.length = t.ch0.length ∧ (t.set ch i w).ch1.length = t.ch1.length := by
  unfold Stage.set
  split
  · exact ⟨List.length_set .., rfl⟩
  · exact ⟨rfl, List.length_set ..⟩

theorem keepsChannel_stageIn (s : State) (ch i : Nat) (w : Word) :
    s.KeepsChannel (s.withHost { s.host with stageIn := s.host.stageIn.set ch i w }) := by
  refine keepsChannel_withHost (fun hinv => ?_) rfl
  obtain ⟨h0, h1⟩ := s.host.stageIn.set_length ch i w
  rw [HostState.inv_iff] at hinv ⊢
  obtain ⟨hin0, hin1, hrest⟩ := hinv
  exact ⟨h0.trans hin0, h1.trans hin1, hrest⟩

theorem clearRegionStep_stepsTo (s : State) (i : Nat) (rest : List HostOp) :
    s.OutcomeStepsTo (s.clearRegionStep i rest) :=
  outcomeStepsTo_ite (fun _ => walkWrite_stepsTo s _ _ _)
    (fun _ => outcomeStepsTo_keeps (keepsChannel_withOps s rest))

theorem chainBuildStep_stepsTo (s : State) (i : Nat) (rest : List HostOp) :
    s.OutcomeStepsTo (s.chainBuildStep i rest) :=
  outcomeStepsTo_ite (fun _ => walkWrite_stepsTo s _ _ _)
    (fun _ => outcomeStepsTo_keeps (keepsChannel_withOps s rest))

theorem pipeInStep_stepsTo (s : State) (k : Fin 2) (i : Nat) (rest : List HostOp) :
    s.OutcomeStepsTo (s.pipeInStep k i rest) := by
  refine outcomeStepsTo_ite (fun _ => ?_) (fun _ => outcomeStepsTo_keeps (keepsChannel_withOps s rest))
  split
  next w t hread =>
    exact outcomeStepsTo_keeps
      (((hostRead_keepsChannel hread).trans (keepsChannel_stageIn t _ _ _)).withOps _)
  next => exact outcomeStepsTo_refused s _
  next => exact outcomeStepsTo_refused s _

theorem pipeOutStep_stepsTo (s : State) (k : Fin 2) (i : Nat) (rest : List HostOp) :
    s.OutcomeStepsTo (s.pipeOutStep k i rest) :=
  outcomeStepsTo_ite (fun _ => (walkWrite_stepsTo (s.drew 1) _ _ _).after (keepsChannel_drew s 1))
    (fun _ => outcomeStepsTo_keeps (keepsChannel_withOps s rest))

theorem readPositionStep_keepsChannel (s : State) (rest : List HostOp) :
    s.KeepsChannel (s.readPositionStep rest) := by
  unfold State.readPositionStep
  split
  · exact .of_eq rfl rfl
  · exact keepsChannel_recordLoopFault s

theorem busyPollStep_keepsChannel (s : State) (rest : List HostOp) :
    s.KeepsChannel (s.busyPollStep rest) := by
  unfold State.busyPollStep
  split
  · split
    · exact .of_eq rfl rfl
    · exact .refl s
  · exact keepsChannel_recordLoopFault s

theorem clearErrorsStep_stepsTo (s : State) (rest : List HostOp) :
    s.OutcomeStepsTo (s.clearErrorsStep rest) :=
  outcomeStepsTo_ite
    (fun _ => (runEncoded_stepsTo _ _).after (.of_eq rfl rfl))
    (fun _ => outcomeStepsTo_keeps (keepsChannel_withOps s rest))

theorem adoptStep_keepsChannel (s : State) (rest : List HostOp) : s.KeepsChannel (s.adoptStep rest) := by
  unfold State.adoptStep
  split <;> exact .of_eq rfl rfl

theorem notifyStep_keepsChannel (s : State) (rest : List HostOp) :
    s.KeepsChannel (s.notifyStep rest) := by
  unfold State.notifyStep
  split <;> exact .of_eq rfl rfl

theorem loopHeadStep_keepsChannel (s : State) (rest : List HostOp) :
    s.KeepsChannel (s.loopHeadStep rest) := by
  unfold State.loopHeadStep
  split <;> exact .of_eq rfl rfl

theorem snapshotStep_keepsChannel (s : State) (i : Nat) (rest : List HostOp) :
    s.KeepsChannel (s.snapshotStep i rest) := by
  unfold State.snapshotStep
  split
  · dsimp only
    split <;> exact .of_eq rfl rfl
  · exact .of_eq rfl rfl

theorem gpioLevelStep_stepsTo (s : State) (pin : Nat) (rest : List HostOp) :
    s.OutcomeStepsTo (s.gpioLevelStep pin rest) :=
  outcomeStepsTo_refusedUnless
    (fun _ => issues_stepsTo ((regReadFree_stepsTo _ _).after (keepsChannel_withOps s rest))) _

theorem keepsChannel_pull (s : State) (pin : Nat) (mode : Pull) (v : Word) :
    s.KeepsChannel (s.withGpio { s.gpio with pull := s.gpio.pull.set pin mode, pullCtl := v }) :=
  keepsChannel_withGpio fun hinv => by
    rw [GpioState.inv_iff] at hinv ⊢
    exact ⟨hinv.1, (List.length_set ..).trans hinv.2⟩

theorem gpioPullStep_stepsTo (s : State) (pin : Nat) (mode : Pull) (rest : List HostOp) :
    s.OutcomeStepsTo (s.gpioPullStep pin mode rest) :=
  outcomeStepsTo_refusedUnless (fun _ => issues_stepsTo (issues_stepsTo (outcomeStepsTo_keeps
    ((keepsChannel_pull s pin mode _).withOps rest)))) _

theorem codecResetStep_keepsChannel (s : State) (rest : List HostOp) :
    s.KeepsChannel (s.codecResetStep rest) :=
  (keepsChannel_withOps s rest).trans (keepsChannel_withEnv fun _ => rfl)

theorem hostOpStep_stepsTo (s : State) (op : HostOp) (rest : List HostOp) :
    s.OutcomeStepsTo (s.hostOpStep op rest) := by
  cases op with
  | run i | csWrite clr set =>
    exact (runEncoded_stepsTo _ _).after (keepsChannel_withOps s rest)
  | codecReset => exact outcomeStepsTo_keeps (codecResetStep_keepsChannel s rest)
  | chainBases | startDone | stopDone | sleep => exact outcomeStepsTo_keeps (.of_eq rfl rfl)
  | codecBringUp | pipeCall => exact outcomeStepsTo_keeps (.refl s)
  | clearRegion i => exact clearRegionStep_stepsTo s i rest
  | chainBuild i => exact chainBuildStep_stepsTo s i rest
  | loopHead => exact outcomeStepsTo_keeps (loopHeadStep_keepsChannel s rest)
  | pipeIn k i => exact pipeInStep_stepsTo s k i rest
  | pipeOut k i => exact pipeOutStep_stepsTo s k i rest
  | readPosition =>
    exact issues_stepsTo (outcomeStepsTo_keeps (readPositionStep_keepsChannel s rest))
  | readStatus | position => exact issues_stepsTo (outcomeStepsTo_keeps (.of_eq rfl rfl))
  | clearErrors => exact clearErrorsStep_stepsTo s rest
  | adopt => exact outcomeStepsTo_keeps (adoptStep_keepsChannel s rest)
  | notify => exact outcomeStepsTo_keeps (notifyStep_keepsChannel s rest)
  | busyPoll => exact issues_stepsTo (outcomeStepsTo_keeps (busyPollStep_keepsChannel s rest))
  | snapshot i => exact outcomeStepsTo_keeps (snapshotStep_keepsChannel s i rest)
  | gpioLevel pin => exact gpioLevelStep_stepsTo s pin rest
  | gpioPull pin mode => exact gpioPullStep_stepsTo s pin mode rest

theorem hostTurn_stepsTo (s : State) : s.OutcomeStepsTo s.hostTurn := by
  unfold State.hostTurn
  split
  · exact outcomeStepsTo_ite (fun _ => outcomeStepsTo_keeps (.refl s))
      (fun _ => hostOpStep_stepsTo s _ _)
  · exact outcomeStepsTo_keeps (.refl s)

/-! ### The agents' turns -/

theorem dmaTurn_stepsTo (s : State) : s.OutcomeStepsTo s.dmaTurn := by
  refine outcomeStepsTo_ite (fun _ => ?_) (fun _ => outcomeStepsTo_keeps (.refl s))
  split
  · exact outcomeStepsTo_keeps (.refl s)
  · exact outcomeStepsTo_ite (fun _ => outcomeStepsTo_next (stepsTo_withDma .halt)) fun _ =>
      outcomeStepsTo_ite (fun _ => runEncoded_stepsTo s _) fun _ =>
        outcomeStepsTo_next (stepsTo_recordDmaFault s (.inr rfl))
  · exact exec_stepsTo _ s
  · exact exec_stepsTo _ s

theorem rxWord_keepsChannel (s : State) (v : BitVec 24) : s.KeepsChannel (s.rxWord v) := by
  unfold State.rxWord
  split
  · exact .refl s
  · dsimp only
    split
    next hroom => exact (keepsChannel_pushRx _ hroom).trans (.of_eq rfl rfl)
    next => exact .of_eq rfl rfl

theorem txWord_keepsChannel (s : State) : s.KeepsChannel s.txWord := by
  unfold State.txWord
  split
  · exact .refl s
  · dsimp only
    split
    next w r hfifo => exact (keepsChannel_popTx hfifo).trans (.of_eq rfl rfl)
    next => exact .of_eq rfl rfl

/-- Of HOST's part the invariant reads only the staging buffers and the two marks of INIT. -/
theorem HostState.inv_of_stages {c : Cfg} {h k : HostState} (hin : k.stageIn = h.stageIn)
    (hout : k.stageOut = h.stageOut) (husable : (!k.inited || k.everInited) = true) :
    h.inv c = true → k.inv c = true := by
  rw [HostState.inv_iff, HostState.inv_iff, hin, hout]
  exact fun ⟨hin0, hin1, hout0, hout1, _⟩ => ⟨hin0, hin1, hout0, hout1, husable⟩

/-- INIT makes the transport usable only together with the mark that it has been initialised. -/
theorem initCall_keepsChannel (s : State) (alloc : AllocOutcome) (i o : Nat) :
    s.KeepsChannel (s.initCall alloc i o) := by
  unfold State.initCall
  dsimp only
  split
  · refine .drew ?_ 1
    exact keepsChannel_withHost (HostState.inv_of_stages rfl rfl rfl) rfl
  · exact keepsChannel_withHost (HostState.inv_of_stages rfl rfl rfl) rfl

theorem stopCall_keepsChannel (s : State) (after : List HostOp) : s.KeepsChannel (s.stopCall after) :=
  .of_eq rfl rfl

theorem callTurn_stepsTo (s : State) (c : Call) : s.OutcomeStepsTo (s.callTurn c) := by
  refine outcomeStepsTo_ite (fun _ => outcomeStepsTo_keeps (.refl s)) fun _ => ?_
  cases c with
  | init alloc i o =>
    exact outcomeStepsTo_refusedUnless
      (fun _ => outcomeStepsTo_keeps (initCall_keepsChannel s alloc i o)) _
  | start => exact outcomeStepsTo_refusedUnless (fun _ => outcomeStepsTo_keeps (keepsChannel_withOps s _)) _
  | stop | restart =>
    exact outcomeStepsTo_refusedUnless (fun _ => outcomeStepsTo_keeps (stopCall_keepsChannel s _)) _
  | getLastError =>
    exact outcomeStepsTo_refusedUnless (fun _ => outcomeStepsTo_keeps (keepsChannel_returns s _)) _

theorem pseudoTurn_stepsTo (s : State) (p : Pseudo) : s.OutcomeStepsTo (s.pseudoTurn p) :=
  outcomeStepsTo_refusedUnless (fun _ => outcomeStepsTo_keeps (keepsChannel_withOps s _)) _

theorem codecReadyTurn_keepsChannel (s : State) (ok : Bool) :
    s.KeepsChannel (s.codecReadyTurn ok) := by
  unfold State.codecReadyTurn
  split
  · split
    · exact (keepsChannel_withOps s _).trans (keepsChannel_withEnv fun _ => rfl)
    · exact .of_eq rfl rfl
  · exact .refl s

theorem codecClockTurn_keepsChannel (s : State) (on : Bool) :
    s.KeepsChannel (s.codecClockTurn on) :=
  keepsChannel_withEnv fun _ => by
    cases hup : s.env.codecUp <;> simp [EnvState.inv, hup]

theorem length_callbackArray (out : List Word) (size draws : Nat) :
    (callbackArray out size draws).length = size := by
  simp [callbackArray]

theorem callbackTurn_keepsChannel (s : State) (out0 out1 : List Word) (exit : Bool) :
    s.KeepsChannel (s.callbackTurn out0 out1 exit) := by
  unfold State.callbackTurn
  split
  · refine .drew (.withOps ?_ _) _
    refine keepsChannel_withHost (fun hinv => ?_) rfl
    rw [HostState.inv_iff] at hinv ⊢
    obtain ⟨hin0, hin1, -, -, husable⟩ := hinv
    exact ⟨hin0, hin1, length_callbackArray .., length_callbackArray .., husable⟩
  · exact .refl s

theorem runTurn_stepsTo (s : State) (turn : Turn) : s.OutcomeStepsTo (s.runTurn turn) := by
  cases turn with
  | dma => exact dmaTurn_stepsTo s
  | rx v => exact outcomeStepsTo_keeps (rxWord_keepsChannel s v)
  | tx => exact outcomeStepsTo_keeps (txWord_keepsChannel s)
  | reg w => exact runEncoded_stepsTo s (.reg w)
  | cvt sel w0 w1 w2 w3 => exact runEncoded_stepsTo s (.cvt sel w0 w1 w2 w3)
  | memRead a => exact portRead_stepsTo fun _ _ => hostRead_keepsChannel
  | memWrite a v => exact portWrite_stepsTo fun _ => hostWrite_keepsChannel
  | pseudo p => exact pseudoTurn_stepsTo s p
  | host => exact hostTurn_stepsTo s
  | call c => exact callTurn_stepsTo s c
  | codecReady ok => exact outcomeStepsTo_keeps (codecReadyTurn_keepsChannel s ok)
  | codecClock on => exact outcomeStepsTo_keeps (codecClockTurn_keepsChannel s on)
  | callback out0 out1 exit => exact outcomeStepsTo_keeps (callbackTurn_keepsChannel s out0 out1 exit)
  | requestExit => exact outcomeStepsTo_keeps (.of_eq rfl rfl)

theorem takeTurn_keepsChannel (s : State) : s.KeepsChannel s.takeTurn.2 := by
  unfold State.takeTurn
  split <;> exact .of_eq rfl rfl

theorem step_stepsTo (s : State) : s.OutcomeStepsTo (step s) :=
  (runTurn_stepsTo _ _).after (takeTurn_keepsChannel s)

/-- Settles O21: a step makes one move of the channel; of the moves only the advance and the abort of a
loaded descriptor, the reset, and SETCB, refused while active, touch the position. -/
theorem positionMovesOnlyAlongNext : Obligations.PositionMovesOnlyAlongNext :=
  fun s t h => (step_stepsTo s t h).dma.position

/-- Settles O58: every operation of a step keeps the invariant of the part it updates. -/
theorem stepKeepsInvariant : Obligations.StepKeepsInvariant :=
  fun s t hinv h => (step_stepsTo s t h).inv hinv

end Sys2Proof.Machine
end

section
/-! SUPPORT. The layout of the Sample Region (20 R63, R64, R73): its four buffers as one row of ranges, the
words of the region, and what no two ranges share. -/

namespace Sys2Proof.Machine

/-- The base of the `b`-th of the four sample buffers in their order in the Sample Region: `in[0]`, `in[1]`,
`out[0]`, `out[1]` (20 R63). -/
def bufferBase (c : Cfg) (b : Nat) : Nat := c.smpBus + b * c.bufBytes

theorem inBase_eq (c : Cfg) (k : Nat) : c.inBase k = bufferBase c k := rfl

theorem outBase_eq (c : Cfg) (k : Nat) : c.outBase k = bufferBase c (2 + k) := rfl

/-- The slots of the four buffers, numbered through, are the words of the region in order. -/
theorem slotAddr_bufferBase (c : Cfg) (b p ch : Nat) :
    slotAddr (bufferBase c b) p ch = c.smpBus + 4 * ((b * c.blockSizeA + p) * 2 + ch) := by
  simp only [slotAddr, bufferBase, Cfg.bufBytes]
  ring

theorem regionBytes_eq (c : Cfg) : c.regionBytes = 4 * (4 * c.blockSizeA * 2) := by
  simp only [Cfg.regionBytes, Cfg.bufBytes]
  ring

/-- A number below `4 * size * 2` has exactly the form `(b * size + p) * 2 + ch`. -/
theorem slotNumber_iff (size n : Nat) :
    n < 4 * size * 2 ↔ ∃ b < 4, ∃ p < size, ∃ ch < 2, n = (b * size + p) * 2 + ch := by
  constructor
  · intro h
    have hhalf : n / 2 < 4 * size := Nat.div_lt_of_lt_mul (by omega)
    have hsize : 0 < size := by omega
    have hframe := Nat.div_add_mod' (n / 2) size
    exact ⟨n / 2 / size, (Nat.div_lt_iff_lt_mul hsize).2 hhalf, n / 2 % size, Nat.mod_lt _ hsize,
      n % 2, Nat.mod_lt _ two_pos, by omega⟩
  · rintro ⟨b, hb, p, hp, ch, hch, rfl⟩
    have hrow : b * size + size ≤ 4 * size := by
      rw [← Nat.succ_mul]
      exact Nat.mul_le_mul_right size hb
    omega

/-- The block being aligned, the words of the Sample Region are numbered from its base. -/
theorem isSlot_iff {c : Cfg} (halign : c.smpBus % 4 = 0) (a : Nat) :
    c.isSlot a = true ↔ ∃ n < 4 * c.blockSizeA * 2, a = c.smpBus + 4 * n := by
  simp only [Cfg.isSlot, Bool.and_eq_true, decide_eq_true_eq, regionBytes_eq]
  constructor
  · rintro ⟨⟨hword, hlo⟩, hhi⟩
    exact ⟨(a - c.smpBus) / 4, by omega, by omega⟩
  · rintro ⟨n, hn, rfl⟩
    omega

theorem smpBus_aligned {c : Cfg} (hwf : c.wf = true) : c.smpBus % 4 = 0 := by
  obtain ⟨-, hblock, -⟩ := (Cfg.wf_iff c).1 hwf
  simp only [Cfg.smpBus]
  omega

/-- A property of some of the four buffers is one of an input or of an output buffer. -/
theorem exists_buffer_iff (P : Nat → Prop) :
    (∃ b < 4, P b) ↔ ∃ k < 2, P k ∨ P (2 + k) := by
  constructor
  · rintro ⟨b, hb, h⟩
    obtain hlt | hge := Nat.lt_or_ge b 2
    · exact ⟨b, hlt, .inl h⟩
    · exact ⟨b - 2, by omega, .inr (by rwa [Nat.add_sub_cancel' hge])⟩
  · rintro ⟨k, hk, h | h⟩
    · exact ⟨k, by omega, h⟩
    · exact ⟨2 + k, by omega, h⟩

/-- Settles O6: a word of the region has a number, the number is a buffer, a frame position and a channel,
and the buffer is one of the two of either direction. -/
theorem slotsAreBufferWords : Obligations.SlotsAreBufferWords := by
  intro c a hwf
  calc c.isSlot a = true
      ↔ ∃ n < 4 * c.blockSizeA * 2, a = c.smpBus + 4 * n := isSlot_iff (smpBus_aligned hwf) a
    _ ↔ ∃ b < 4, ∃ p < c.blockSizeA, ∃ ch < 2, a = slotAddr (bufferBase c b) p ch := by
        simp only [slotNumber_iff, slotAddr_bufferBase]
        constructor
        · rintro ⟨_, ⟨b, hb, p, hp, ch, hch, rfl⟩, rfl⟩
          exact ⟨b, hb, p, hp, ch, hch, rfl⟩
        · rintro ⟨b, hb, p, hp, ch, hch, rfl⟩
          exact ⟨_, ⟨b, hb, p, hp, ch, hch, rfl⟩, rfl⟩
    _ ↔ ∃ k < 2, ∃ p < c.blockSizeA, ∃ ch < 2,
          a = slotAddr (c.inBase k) p ch ∨ a = slotAddr (c.outBase k) p ch := by
        rw [exists_buffer_iff]
        simp only [inBase_eq, outBase_eq, exists_or, and_or_left]

/-- A half is the `k`-th buffer of either direction. -/
theorem inHalf_iff (c : Cfg) (k a : Nat) : c.inHalf k a = true ↔
    (bufferBase c k ≤ a ∧ a < bufferBase c k + c.bufBytes) ∨
    (bufferBase c (2 + k) ≤ a ∧ a < bufferBase c (2 + k) + c.bufBytes) := by
  simp only [Cfg.inHalf, Bool.or_eq_true, Bool.and_eq_true, decide_eq_true_eq]
  rfl

/-- The descriptor area ends where the Sample Region begins (20 R60, R63). -/
theorem inDescArea_iff (c : Cfg) (a : Nat) :
    c.inDescArea a = true ↔ c.descBus ≤ a ∧ a < c.smpBus := by
  simp only [Cfg.inDescArea, Bool.and_eq_true, decide_eq_true_eq]
  rfl

theorem smpBus_le_bufferBase (c : Cfg) (b : Nat) : c.smpBus ≤ bufferBase c b := Nat.le_add_right ..

/-- A buffer ends before a later one begins. -/
theorem bufferBase_add_le (c : Cfg) {b b' : Nat} (h : b < b') :
    bufferBase c b + c.bufBytes ≤ bufferBase c b' := by
  have : (b + 1) * c.bufBytes ≤ b' * c.bufBytes := Nat.mul_le_mul_right _ h
  simp only [bufferBase]
  linarith

/-- No address of a half lies in the descriptor area (20 R63). -/
theorem inDescArea_eq_false_of_inHalf {c : Cfg} {k a : Nat} (h : c.inHalf k a = true) :
    c.inDescArea a = false := by
  rw [← Bool.not_eq_true, inDescArea_iff]
  have hin := smpBus_le_bufferBase c k
  have hout := smpBus_le_bufferBase c (2 + k)
  have hhalf := (inHalf_iff c k a).1 h
  omega

/-- No address lies in both halves (20 R73). -/
theorem inHalf_one_of_inHalf_zero {c : Cfg} {a : Nat} (h : c.inHalf 0 a = true) :
    c.inHalf 1 a = false := by
  rw [← Bool.not_eq_true, inHalf_iff]
  have h0 := (inHalf_iff c 0 a).1 h
  have h01 := bufferBase_add_le c (show 0 < 1 by decide)
  have h12 := bufferBase_add_le c (show 1 < 2 + 0 by decide)
  have h23 := bufferBase_add_le c (show 2 + 0 < 2 + 1 by decide)
  omega

/-- Settles O12: the four buffers follow the descriptor area and one another. -/
theorem bufferHalvesDisjoint : Obligations.BufferHalvesDisjoint :=
  fun _ _ => ⟨inHalf_one_of_inHalf_zero,
    fun h => h.elim inDescArea_eq_false_of_inHalf inDescArea_eq_false_of_inHalf⟩

end Sys2Proof.Machine
end

section
/-! SUPPORT. HOST's accesses to the block (20 R66, R67): which half is live (R73, R76), and the answer to
an access at each kind of address. -/

namespace Sys2Proof.Machine

/-- An address is live while the channel is active and its position decodes to the half the address lies
in (20 R76). -/
theorem isLive_iff (s : State) (a : Nat) : s.isLive a = true ↔
    s.dma.active = true ∧ ∃ p, decodePosition s.cfg (s.cfg.descBase 0) (s.cfg.descBase 1)
      s.dma.conblkAd.toNat = some p ∧ s.cfg.inHalf p.buffer.val a = true := by
  unfold State.isLive State.liveBuf
  cases s.dma.active with
  | false => simp
  | true => cases decodePosition s.cfg _ _ s.dma.conblkAd.toNat <;> simp

/-- The live half holds no descriptor (20 R63). -/
theorem inDescArea_eq_false_of_isLive {s : State} {a : Nat} (h : s.isLive a = true) :
    s.cfg.inDescArea a = false := by
  obtain ⟨-, p, -, hhalf⟩ := (isLive_iff s a).1 h
  exact inDescArea_eq_false_of_inHalf hhalf

section
variable {s : State} {a : Word} (hport : a ≠ s.cfg.pcmFifoBus)
include hport

theorem hostRead_outside (hword : ¬s.wordInBlock a = true) : s.hostRead a = .refused .hostAddress := by
  rw [State.hostRead, if_neg hport, if_neg hword]

theorem hostRead_word (hword : s.wordInBlock a = true) : s.hostRead a =
    .ok (Memory.readWord s.mem a.toNat, if s.isLive a.toNat then s.markRace else s) := by
  rw [State.hostRead, if_neg hport, if_pos hword]

theorem hostWrite_outside (hword : ¬s.wordInBlock a = true) (v : Word) :
    s.hostWrite a v = .refused .hostAddress := by
  rw [State.hostWrite, if_neg hport, if_neg hword]

theorem hostWrite_word (hword : s.wordInBlock a = true) (v : Word) : s.hostWrite a v =
    if s.dma.active && s.cfg.inDescArea a.toNat then .refused .descriptorWrite
    else if s.isLive a.toNat then .refused .liveHalfWrite
    else .ok (s.withMem (Memory.writeWord s.mem a.toNat v)) := by
  rw [State.hostWrite, if_neg hport, if_pos hword]

end

/-- A write to the live half meets no descriptor, so it is refused for the half (20 R75). -/
theorem hostWrite_live {s : State} {a : Word} (hport : a ≠ s.cfg.pcmFifoBus)
    (hword : s.wordInBlock a = true) (hlive : s.isLive a.toNat = true) (v : Word) :
    s.hostWrite a v = .refused .liveHalfWrite := by
  rw [hostWrite_word hport hword, if_neg (by simp [inDescArea_eq_false_of_isLive hlive]), if_pos hlive]

/-- Settles O48: outside the block the address is refused; inside it a read answers, and a write tests the
descriptor area and the live half, which are disjoint. -/
theorem hostMemoryAccess : Obligations.HostMemoryAccess := by
  intro s a v hmem hport live
  have hlive : s.isLive a.toNat = true ↔ live := isLive_iff s a.toNat
  have hread : s.runTurn (.memRead a) = portRead (s.hostRead a) := rfl
  have hwrite : s.runTurn (.memWrite a v) = portWrite (s.hostWrite a v) := rfl
  refine ⟨fun hout => ?_, fun halign hblock => ?_⟩
  · have hword : ¬s.wordInBlock a = true := by
      rw [wordInBlock_iff]
      rintro ⟨halign, hblock⟩
      simp [halign, hblock] at hout
    rw [hread, hwrite, hostRead_outside hport hword, hostWrite_outside hport hword]
    exact ⟨rfl, rfl⟩
  · have hword : s.wordInBlock a = true := (wordInBlock_iff s a).2 ⟨halign, hblock⟩
    rw [hread, hwrite, hostRead_word hport hword]
    refine ⟨fun h => ?_, fun h => ?_, fun hactive harea => ?_, fun h => ?_, fun h hsafe => ?_⟩
    · rw [if_pos (hlive.2 h)]
      rfl
    · rw [if_neg (mt hlive.1 h)]
      rfl
    · rw [hostWrite_word hport hword, if_pos (by simp [hactive, harea])]
      rfl
    · rw [hostWrite_live hport hword (hlive.2 h)]
      rfl
    · rw [hostWrite_word hport hword, if_neg (by simpa using hsafe), if_neg (mt hlive.1 h)]
      exact ⟨_, rfl, Memory.readWord_writeWord_self _ v hmem,
        fun _ => Memory.readByte_writeWord_of_outside _ v⟩

end Sys2Proof.Machine
end

section
/-! SUPPORT. The ends of the engine's run: no turn while inactive or faulted (42 R160, 60 R307), the load
from address 0 and from a bad address (42 R167, 20 R71), and what `CS` shows of a fault (42 R177). -/

namespace Sys2Proof.Machine

theorem dmaTurn_of_inactive {s : State} (h : s.dma.active = false) : s.dmaTurn = .next s :=
  if_neg (by simp [engineRuns_iff, h])

theorem dmaTurn_of_faulted {s : State} {f : Fault} (h : s.dmaFault = some f) : s.dmaTurn = .next s :=
  if_neg (by simp [engineRuns_iff, h])

/-- A running engine about to load (42 R163, R167). -/
theorem dmaTurn_of_needLoad {s : State} (hactive : s.dma.active = true) (hfault : s.dmaFault = none)
    (hphase : s.dma.phase = .needLoad) : s.dmaTurn =
      if s.dma.conblkAd = 0#32 then .next s.halt
      else if s.descAddrOk then s.runEncoded (.desc s.fetchDesc)
      else .next (s.recordDmaFault .dmaBadDescriptorAddress) := by
  rw [State.dmaTurn, if_pos ((engineRuns_iff s).2 ⟨hactive, hfault⟩), hphase]

/-- A recorded engine fault leaves an error bit of `DEBUG` set (92 D13). -/
theorem recordDmaFault_error (s : State) (f : Fault) : (s.recordDmaFault f).dma.error = true := by
  have h : ∀ e : BitVec 3, (e ||| 4#3) ≠ 0#3 := by decide
  exact bne_iff_ne.2 (h _)

/-- `CS` shows an error in bit 8, whatever the bits it leaves undefined (10 R15). -/
theorem dmaCsWord_error {s : State} (h : s.dma.error = true) (free : Word) :
    (s.dmaCsWord free).getLsbD 8 = true := by
  unfold State.dmaCsWord
  dsimp only
  split <;> simp [mixFree_getLsbD, flagBit_getLsbD, h, dmaCsDefined]

/-- The three ways an address is no legal descriptor address (20 R68, R71; log 11). -/
theorem not_descAddrOk {s : State}
    (h : s.dma.conblkAd.toNat % 32 ≠ 0 ∨ s.cfg.inBlock s.dma.conblkAd.toNat 32 = false ∨
      s.cfg.descSlotsOnly = true ∧ ∀ i < s.cfg.nDesc, s.dma.conblkAd.toNat ≠ s.cfg.descAddr i) :
    ¬s.descAddrOk = true := by
  rw [descAddrOk_iff]
  rintro ⟨halign, hblock, hslot⟩
  obtain h | h | ⟨honly, hno⟩ := h
  · exact h halign
  · exact absurd (hblock.symm.trans h) (by decide)
  · obtain ⟨i, hi, heq⟩ := hslot honly
    exact hno i hi heq

/-- Settles O16: the load judges the address, and neither a halted nor a faulted engine has a turn. -/
theorem badDescriptorAddressStopsEngine : Obligations.BadDescriptorAddressStopsEngine := by
  intro s hactive hfault hphase
  rw [dmaTurn_of_needLoad hactive hfault hphase]
  refine ⟨fun hzero => ⟨if_pos hzero, dmaTurn_of_inactive rfl⟩, ?_⟩
  intro hzero hbad t
  rw [if_neg hzero, if_neg (not_descAddrOk hbad)]
  exact ⟨rfl, dmaCsWord_error (recordDmaFault_error s _), dmaTurn_of_faulted rfl⟩

end Sys2Proof.Machine
end

section
/-! SUPPORT. The encoding (30_encoding): the round trip of every instruction, its converse for tuples, the
kinds of a descriptor (R94), and nine words of the spec's vectors. -/

namespace Sys2Proof.Laws

/-- Settles O2: the round trip of each constructor. -/
theorem decodeUndoesEncode : Obligations.DecodeUndoesEncode := by
  intro c i hwin hwf
  suffices h : EncodingRoundTrip.Statement i from h c hwin hwf
  open EncodingRoundTrip in
  exact match i with
  | .xferRx d => xferRx d
  | .xferTx d => xferTx d
  | .xferOther d => xferOther d
  | .dmaRdcs ch => dmaRdcs ch
  | .dmaReset ch v => dmaReset ch v
  | .dmaAbort ch v => dmaAbort ch v
  | .dmaGo ch v => dmaGo ch v
  | .dmaPause ch v => dmaPause ch v
  | .dmaRdpos ch => dmaRdpos ch
  | .dmaSetcb ch a => dmaSetcb ch a
  | .dmaRdti ch => dmaRdti ch
  | .dmaRdsrc ch => dmaRdsrc ch
  | .dmaRddst ch => dmaRddst ch
  | .dmaRdlen ch => dmaRdlen ch
  | .dmaRdstride ch => dmaRdstride ch
  | .dmaRdnext ch => dmaRdnext ch
  | .dmaRddbg ch => dmaRddbg ch
  | .dmaClrdbg ch v => dmaClrdbg ch v
  | .pcmRdcs => pcmRdcs
  | .pcmWrcs v => pcmWrcs v
  | .pcmRdfifo => pcmRdfifo
  | .pcmWrfifo v => pcmWrfifo v
  | .pcmRdmode => pcmRdmode
  | .pcmWrmode v => pcmWrmode v
  | .pcmRdrxc => pcmRdrxc
  | .pcmWrrxc v => pcmWrrxc v
  | .pcmRdtxc => pcmRdtxc
  | .pcmWrtxc v => pcmWrtxc v
  | .pcmRddreq => pcmRddreq
  | .pcmWrdreq v => pcmWrdreq v
  | .pcmRdinten => pcmRdinten
  | .pcmWrinten v => pcmWrinten v
  | .pcmRdintstc => pcmRdintstc
  | .pcmWrintstc v => pcmWrintstc v
  | .gpioSetfn reg field f => gpioSetfn reg field f
  | .gpioSet bank v => gpioSet bank v
  | .gpioClr bank v => gpioClr bank v
  | .gpioRead bank => gpioRead bank
  | .gpioPud v => gpioPud v
  | .gpioPudclk bank v => gpioPudclk bank v
  | .cvtI2f w => cvtI2f w
  | .cvtI2fV4 w0 w1 w2 w3 => cvtI2fV4 w0 w1 w2 w3
  | .cvtF2i f => cvtF2i f
  | .cvtF2iV4 f0 f1 f2 f3 => cvtF2iV4 f0 f1 f2 f3

/-! ### Tuples re-encode (30 R99, R100) -/

/-- Cutting a tuple into its fields and joining them again changes nothing. -/
theorem regPack_regFields (w : BitVec 49) : regPack (regFields w) = w := by
  simp only [regPack, regFields]
  iterate 3 rw [BitVec.extractLsb'_append_extractLsb'_eq_extractLsb' (by rfl)]
  exact BitVec.extractLsb'_eq_self

/-- The data bits the spec gives a tuple: 0 for a read (30 R99). -/
def tupleData (kind : BitVec 2) (v : Word) : Word := if kind = 0#2 then 0#32 else v

theorem tupleData_eq {kind : BitVec 2} {v : Word} (h : kind ≠ 0#2 ∨ v = 0#32) :
    tupleData kind v = v := by
  unfold tupleData
  split_ifs with hk
  · exact (h.resolve_left (not_not_intro hk)).symm
  · rfl

/-- A row of a table, matched by its numbers, fixes the kind and the offset. -/
theorem row_eq {kind : BitVec 2} {n k o : Nat} {off : BitVec n} (hkind : kind.toNat = k)
    (hoff : off.toNat = o) : kind = BitVec.ofNat 2 k ∧ off = BitVec.ofNat n o := by
  subst hkind hoff
  simp

/-- What the PCM table lists re-encodes: every line has its kind and its offset. -/
theorem encode_of_decodePcm {kind : BitVec 2} {off : BitVec 13} {v : Word} {i : Instr}
    (h : decodePcm kind off v = .ok i) :
    encode i = .reg (regPack (pcmTuple kind off (tupleData kind v))) := by
  unfold decodePcm at h
  split at h <;> cases h
  all_goals
    rename_i hkind hoff
    obtain ⟨rfl, rfl⟩ := row_eq hkind hoff
    rfl

/-- The four rows of a write to `CS` share one encoding. -/
theorem encode_decodeDmaCs (ch : BitVec 4) (v : Word) :
    encode (decodeDmaCs ch v) = .reg (regPack (dmaTuple ch 1#2 0x00#8 v)) := by
  unfold decodeDmaCs
  split_ifs <;> rfl

/-- What the DMA table lists re-encodes, the channel and the register given apart. -/
theorem encode_of_decodeDma_off {kind : BitVec 2} {ch : BitVec 4} {o : BitVec 8} {v : Word} {i : Instr}
    (h : decodeDma kind (0#1 ++ ch ++ o) v = .ok i) :
    encode i = .reg (regPack (dmaTuple ch kind o (tupleData kind v))) := by
  rw [decodeDma_off] at h
  split at h <;> cases h
  all_goals
    rename_i hkind hoff
    obtain ⟨rfl, rfl⟩ := row_eq hkind hoff
  case h_2 => exact encode_decodeDmaCs ch v
  all_goals rfl

/-- An offset with bit 12 clear is a channel and a register. -/
theorem dmaOff_eq {off : BitVec 13} (h : off.getLsbD 12 = false) :
    off = 0#1 ++ off.extractLsb' 8 4 ++ off.extractLsb' 0 8 := by
  have htop : 0#1 = off.extractLsb' 12 1 := by
    apply BitVec.eq_of_getLsbD_eq
    intro k hk
    obtain rfl : k = 0 := by omega
    simpa using h.symm
  rw [htop]
  iterate 2 rw [BitVec.extractLsb'_append_extractLsb'_eq_extractLsb' (by rfl)]
  exact BitVec.extractLsb'_eq_self.symm

theorem encode_of_decodeDma {kind : BitVec 2} {off : BitVec 13} {v : Word} {i : Instr}
    (h : decodeDma kind off v = .ok i) :
    encode i = .reg (regPack ⟨2#2, kind, off, tupleData kind v⟩) := by
  cases htop : off.getLsbD 12 with
  | true => simp [decodeDma, htop] at h
  | false =>
    rw [dmaOff_eq htop] at h ⊢
    exact encode_of_decodeDma_off h

/-- Data with no bit outside `data[7:4]` and `data[2:0]` is these two fields (30 R99). -/
theorem setfnData_eq {v : Word} (h : v &&& 0xFFFFFF08#32 = 0#32) :
    v = BitVec.ofNat 24 0 ++ v.extractLsb' 4 4 ++ 0#1 ++ v.extractLsb' 0 3 := by
  have hmask : ∀ k < 32, k = 3 ∨ 8 ≤ k → (0xFFFFFF08#32).getLsbD k = true := by decide
  have hclear : ∀ k < 32, k = 3 ∨ 8 ≤ k → v.getLsbD k = false := fun k hk hout => by
    simpa [BitVec.getLsbD_and, hmask k hk hout] using congrArg (·.getLsbD k) h
  have hhigh : BitVec.ofNat 24 0 = v.extractLsb' 8 24 := by
    apply BitVec.eq_of_getLsbD_eq
    intro k hk
    simp [hk, hclear (8 + k) (by omega) (.inr (by omega))]
  have hgap : 0#1 = v.extractLsb' 3 1 := by
    apply BitVec.eq_of_getLsbD_eq
    intro k hk
    obtain rfl : k = 0 := by omega
    simpa using (hclear 3 (by decide) (.inl rfl)).symm
  rw [hhigh, hgap]
  iterate 3 rw [BitVec.extractLsb'_append_extractLsb'_eq_extractLsb' (by rfl)]
  exact BitVec.extractLsb'_eq_self.symm

theorem encode_of_decodeSetfn {reg : Fin 6} {v : Word} {i : Instr} (h : decodeSetfn reg v = .ok i) :
    encode i = .reg (regPack (gpioTuple 2#2 (BitVec.ofNat 13 (4 * reg.val)) v)) := by
  unfold decodeSetfn at h
  split_ifs at h with hdata hfield
  cases h
  simp only [encode]
  rw [BitVec.ofNat_toNat, BitVec.setWidth_eq, ← setfnData_eq (not_not.1 hdata)]

/-- What the GPIO table lists re-encodes: the six function registers by `GPIO.SETFN`'s data, every other line
as it stands. -/
theorem encode_of_decodeGpio {kind : BitVec 2} {off : BitVec 13} {v : Word} {i : Instr}
    (h : decodeGpio kind off v = .ok i) :
    encode i = .reg (regPack (gpioTuple kind off (tupleData kind v))) := by
  unfold decodeGpio at h
  split at h
  case h_16 => cases h
  all_goals
    rename_i hkind hoff
    obtain ⟨rfl, rfl⟩ := row_eq hkind hoff
  case h_1 | h_2 | h_3 | h_4 | h_5 | h_6 => exact (encode_of_decodeSetfn h).trans rfl
  all_goals
    cases h
    rfl

/-- A tuple that decodes does so by the table of its window. -/
theorem decodeReg_ok {c : Cfg} {w : BitVec 49} {i : Instr} (h : decodeReg c w = .ok i) :
    (regFields w).win = 0#2 ∧ decodeGpio (regFields w).kind (regFields w).off (regFields w).data = .ok i ∨
    (regFields w).win = 1#2 ∧ decodePcm (regFields w).kind (regFields w).off (regFields w).data = .ok i ∨
    (regFields w).win = 2#2 ∧ decodeDma (regFields w).kind (regFields w).off (regFields w).data = .ok i := by
  have hwindows : ∀ win : BitVec 2, win ≠ 3#2 → win ≠ 0#2 → win ≠ 1#2 → win = 2#2 := by decide
  unfold decodeReg at h
  dsimp only at h
  split_ifs at h with hwin hkind halign hin hgpio hpcm
  · exact .inl ⟨hgpio, h⟩
  · exact .inr (.inl ⟨hpcm, h⟩)
  · exact .inr (.inr ⟨hwindows _ hwin hgpio hpcm, h⟩)

/-- What a tuple decodes to encodes to the tuple, the data of a read cleared. -/
theorem encode_of_decodeReg {c : Cfg} {w : BitVec 49} {i : Instr} (h : decodeReg c w = .ok i) :
    encode i = .reg (regPack { regFields w with
      data := tupleData (regFields w).kind (regFields w).data }) := by
  dsimp only
  obtain ⟨hwin, h⟩ | ⟨hwin, h⟩ | ⟨hwin, h⟩ := decodeReg_ok h
  · rw [hwin]; exact encode_of_decodeGpio h
  · rw [hwin]; exact encode_of_decodePcm h
  · rw [hwin]; exact encode_of_decodeDma h

/-- Settles O3: where the data of a read is 0, clearing it changes nothing. -/
theorem listedTupleReencodes : Obligations.ListedTupleReencodes := by
  intro c w i h hdata
  rw [encode_of_decodeReg h, tupleData_eq hdata, regPack_regFields]

/-! ### The kinds of a descriptor (30 R94) -/

theorem isRx_iff (c : Cfg) (d : Desc) : d.isRx c = true ↔
    d.ti &&& 0x001F0FF3#32 = 0x00030400#32 ∧ d.src = c.pcmFifoBus ∧
      c.isSlot d.dst.toNat = true ∧ d.len = 4#32 ∧ d.stride = 0#32 := by
  simp [Desc.isRx, tiMask, and_assoc]

theorem isTx_iff (c : Cfg) (d : Desc) : d.isTx c = true ↔
    d.ti &&& 0x001F0FF3#32 = 0x00020040#32 ∧ d.dst = c.pcmFifoBus ∧
      c.isSlot d.src.toNat = true ∧ d.len = 4#32 ∧ d.stride = 0#32 := by
  simp [Desc.isTx, tiMask, and_assoc]

/-- No words select both kinds: their `ti` values under the mask differ. -/
theorem not_isRx_of_isTx {c : Cfg} {d : Desc} (h : d.isTx c = true) : ¬d.isRx c = true := by
  intro hrx
  obtain ⟨htiTx, -⟩ := (isTx_iff c d).1 h
  obtain ⟨htiRx, -⟩ := (isRx_iff c d).1 hrx
  exact absurd (htiRx.symm.trans htiTx) (by decide)

theorem decodeDesc_eq_xferRx (c : Cfg) (d : Desc) : decodeDesc c d = .xferRx d ↔ d.isRx c = true := by
  unfold decodeDesc
  split_ifs with hrx htx <;> simp [hrx]

theorem decodeDesc_eq_xferTx (c : Cfg) (d : Desc) : decodeDesc c d = .xferTx d ↔ d.isTx c = true := by
  unfold decodeDesc
  split_ifs with hrx htx
  · simpa using fun htx => not_isRx_of_isTx htx hrx
  · simp [htx]
  · simp [htx]

theorem decodeDesc_eq_xferOther (c : Cfg) (d : Desc) :
    decodeDesc c d = .xferOther d ↔ ¬d.isRx c = true ∧ ¬d.isTx c = true := by
  unfold decodeDesc
  split_ifs with hrx htx <;> simp [*]

theorem decode_desc_ok (c : Cfg) (d : Desc) (i : Instr) :
    decode c (.desc d) = .ok i ↔ decodeDesc c d = i := by
  simp [decode]

/-- Settles O5: each kind is its condition, and no condition looks at the reserved words. -/
theorem descriptorKindsByMask : Obligations.DescriptorKindsByMask := by
  intro c d
  dsimp only
  rw [← isRx_iff, ← isTx_iff, decode_desc_ok, decode_desc_ok, decode_desc_ok]
  exact ⟨decodeDesc_eq_xferRx c d, decodeDesc_eq_xferTx c d, decodeDesc_eq_xferOther c d,
    fun _ _ => ⟨rfl, rfl⟩⟩

/-- Settles O1: the decoder run on the nine words. -/
theorem specWordsDecode : Obligations.SpecWordsDecode := by
  unfold Obligations.SpecWordsDecode
  decide

end Sys2Proof.Laws
end

section
/-! SUPPORT. What an agent's turn does with what it meets (40 R120, R122, 42 R160): an offset that is no
register's decodes to nothing, what decodes is run, and a step is the turn the schedule gives. -/

namespace Sys2Proof.Machine

/-- An aligned offset is a multiple of 4 (40 R122). -/
theorem extractLsb'_align_iff (off : BitVec 13) : off.extractLsb' 0 2 = 0#2 ↔ off.toNat % 4 = 0 := by
  simp [← BitVec.toNat_inj]

/-- A tuple with an offset R122 refuses is no instruction: no table is reached. -/
theorem decodeReg_illegalOffset {c : Cfg} {w : BitVec 49} (h : (regFields w).off.toNat % 4 ≠ 0 ∨
    c.winSize (regFields w).win ≤ (regFields w).off.toNat) : ∃ e, decodeReg c w = .error e := by
  unfold decodeReg
  dsimp only
  split_ifs with hwin hkind halign hin
  · exact ⟨_, rfl⟩
  · exact ⟨_, rfl⟩
  · exact ⟨_, rfl⟩
  · exact ⟨_, rfl⟩
  all_goals
    rw [ne_eq, not_not, extractLsb'_align_iff] at halign
    exact absurd h (not_or.2 ⟨not_not.2 halign, hin⟩)

theorem runEncoded_of_ok {s : State} {e : Encoded} {i : Instr} (h : decode s.cfg e = .ok i) :
    s.runEncoded e = exec i s := by
  rw [State.runEncoded, h]

theorem runEncoded_of_error {s : State} {e : Encoded} {err : DecodeError}
    (h : decode s.cfg e = .error err) : s.runEncoded e = .refused (.badEncoding err) := by
  rw [State.runEncoded, h]

theorem issues_of_ok {s : State} {i j : Instr} (h : decode s.cfg (encode i) = .ok j) (r : Res) :
    s.issues i r = r := by
  rw [State.issues, h]

theorem issues_of_error {s : State} {i : Instr} {err : DecodeError}
    (h : decode s.cfg (encode i) = .error err) (r : Res) :
    s.issues i r = .refused (.badEncoding err) := by
  rw [State.issues, h]

/-- Settles O4: by itself, in a sequence and as the write of `CS_A`, HOST runs the tuple's decoding. -/
theorem illegalOffsetRefused : Obligations.IllegalOffsetRefused := by
  intro s w hoff
  obtain ⟨err, herr⟩ : ∃ err, decode s.cfg (.reg w) = .error err := decodeReg_illegalOffset hoff
  have hseq : ∀ (i : Instr) (rest : List HostOp), encode i = .reg w →
      ∃ e, (s.withOps rest).runEncoded (encode i) = .refused (.badEncoding e) :=
    fun i rest hi => ⟨err, hi ▸ runEncoded_of_error herr⟩
  exact ⟨⟨err, runEncoded_of_error herr⟩, hseq, fun clr set rest => hseq _ rest⟩

/-- A step takes the schedule's next entry and is the turn of its agent (log 3). -/
theorem step_of_sched {s : State} {turn : Turn} {r : List Turn} (h : s.env.sched = turn :: r) :
    step s = State.runTurn { s with env := { s.env with sched := r } } turn := by
  rw [step, State.takeTurn, h]
  rfl

/-- A running engine with a loaded descriptor, on either beat (42 R164, R165). -/
theorem dmaTurn_of_loaded {s : State} (hactive : s.dma.active = true) (hfault : s.dmaFault = none)
    (hphase : s.dma.phase = .loaded ∨ s.dma.phase = .latched) : s.dmaTurn = exec s.loadedInstr s := by
  rw [State.dmaTurn, if_pos ((engineRuns_iff s).2 ⟨hactive, hfault⟩)]
  obtain hphase | hphase := hphase <;> rw [hphase]

/-- Settles O55: the turn of each agent, at the state with the schedule's entry taken. -/
theorem stepRunsDecodedInstruction : Obligations.StepRunsDecodedInstruction := by
  intro s r i t a
  have hstep : ∀ turn, s.env.sched = turn :: r → step s = t.runTurn turn := fun _ => step_of_sched
  refine ⟨fun w hsched hdec => (hstep _ hsched).trans (runEncoded_of_ok (s := t) hdec),
    fun sel w0 w1 w2 w3 hsched hdec => (hstep _ hsched).trans (runEncoded_of_ok (s := t) hdec),
    fun hsched hactive hfault => ⟨?_, ?_⟩⟩
  · intro hphase hzero halign hblock hslot hdec
    have hok : t.descAddrOk = true := (descAddrOk_iff t).2 ⟨halign, hblock, hslot⟩
    have hturn := dmaTurn_of_needLoad (s := t) hactive hfault hphase
    rw [if_neg hzero, if_pos hok] at hturn
    exact (hstep _ hsched).trans (hturn.trans (runEncoded_of_ok (s := t) hdec))
  · intro hphase
    have hturn : step s = exec t.loadedInstr t :=
      (hstep _ hsched).trans (dmaTurn_of_loaded (s := t) hactive hfault hphase)
    exact ⟨fun hrx => hturn.trans (congrArg (exec · t) (loadedInstr_rx hrx)),
      fun htx => hturn.trans (congrArg (exec · t) (loadedInstr_tx htx))⟩

end Sys2Proof.Machine
end

section
/-! SUPPORT. GPIO (40 R125 to R130): the bits of a function word, of a level word and of the outputs after a
write, the pull settings, and the pin operations of HOST inside and outside the window. -/

namespace Sys2Proof.Machine

/-! ### Function words and output levels -/

/-- A function word after `GPIO.SETFN`: the code in its field, the old bits elsewhere (40 R125). -/
theorem setFnField_getLsbD (old : Word) (field : Nat) (f : BitVec 3) {i : Nat} (hi : i < 32) :
    (setFnField old field f).getLsbD i =
      if 3 * field ≤ i ∧ i < 3 * field + 3 then f.getLsbD (i - 3 * field) else old.getLsbD i := by
  have hmask : 7#32 = (BitVec.allOnes 3).setWidth 32 := rfl
  simp only [setFnField, hmask, BitVec.getLsbD_or, BitVec.getLsbD_and, BitVec.getLsbD_not,
    BitVec.getLsbD_shiftLeft, BitVec.getLsbD_setWidth, BitVec.getLsbD_allOnes, hi]
  split_ifs with h
  · obtain ⟨hlo, hhi⟩ := h
    simp [show ¬i < 3 * field by omega, show i - 3 * field < 3 by omega, show i - 3 * field < 32 by omega]
  · by_cases hlo : i < 3 * field
    · simp [hlo]
    · have hout : 3 ≤ i - 3 * field := by omega
      simp [hlo, hout]

/-- Settles O40: the field of the new word holds the code; a pin the SoC lacks is refused. -/
theorem setfnWritesOneField : Obligations.SetfnWritesOneField := by
  intro s reg field f
  have hfield := field.isLt
  refine ⟨fun hpin _ => ⟨setFnField (s.gpio.fsel.getD reg.val 0#32) field.val f, ?_, ?_, ?_⟩, ?_⟩
  · exact if_pos hpin
  · intro j hj
    rw [setFnField_getLsbD _ _ _ (by omega), if_pos (by omega), Nat.add_sub_cancel_left]
  · intro i hi
    by_cases h32 : i < 32
    · rw [setFnField_getLsbD _ _ _ h32, if_neg (by omega)]
    · rw [BitVec.getLsbD_of_ge _ _ (Nat.le_of_not_lt h32), BitVec.getLsbD_of_ge _ _ (Nat.le_of_not_lt h32)]
  · exact fun hpin => if_neg (Nat.not_lt.2 hpin)

/-- Settles O41: the written word, placed in its bank, is the mask of the pins driven. -/
theorem setClearDriveListedPins : Obligations.SetClearDriveListedPins := by
  intro s bank v
  refine ⟨⟨s.gpio.out ||| bankMask bank v, rfl, fun b i hi => ?_⟩,
    ⟨s.gpio.out &&& ~~~bankMask bank v, rfl, fun b i hi => ?_⟩⟩
  · rw [BitVec.getLsbD_or, bankMask_getLsbD bank b v hi]
  · have h64 : 32 * b.val + i < 64 := by omega
    rw [BitVec.getLsbD_and, BitVec.getLsbD_not, bankMask_getLsbD bank b v hi, decide_eq_true h64,
      Bool.true_and]

/-! ### Level words -/

/-- A word put together bit by bit from below. -/
theorem foldl_flagBit_getLsbD (b : Nat → Bool) (n i : Nat) :
    ((List.range n).foldl (fun w j => w ||| flagBit (b j) j) 0#32).getLsbD i =
      (b i && decide (i < n) && decide (i < 32)) := by
  induction n with
  | zero => simp
  | succ n ih =>
    rw [List.range_succ, List.foldl_append, List.foldl_cons, List.foldl_nil, BitVec.getLsbD_or, ih,
      flagBit_getLsbD]
    obtain hlt | rfl | hgt := Nat.lt_trichotomy i n
    · simp [hlt, hlt.ne, Nat.lt_succ_of_lt hlt]
    · simp
    · simp [hgt.not_gt, hgt.ne', show ¬i < n + 1 by omega]

theorem levelWord_getLsbD (s : State) (bank : Fin 2) (free : Word) {i : Nat} (hi : i < 32) :
    (s.levelWord bank free).getLsbD i =
      if s.pinIsOut (32 * bank.val + i) then s.gpio.out.getLsbD (32 * bank.val + i)
      else free.getLsbD i := by
  rw [State.levelWord, foldl_flagBit_getLsbD, decide_eq_true hi, Bool.and_true, Bool.and_true]

theorem pinIsOut_iff (s : State) (p : Nat) : s.pinIsOut p = true ↔ p < s.cfg.nbrPins ∧ p < 60 ∧
    (s.gpio.fsel.getD (p / 10) 0#32).extractLsb' (3 * (p % 10)) 3 = s.cfg.gpioOutFn := by
  simp [State.pinIsOut, fnField, and_assoc]

/-- The bit of an output pin in the level word of its bank (40 R129). -/
theorem levelWord_output {s : State} {bank : Fin 2} {i : Nat} (hi : i < 32)
    (hout : s.pinIsOut (32 * bank.val + i) = true) (free : Word) :
    (s.levelWord bank free).getLsbD i = s.gpio.out.getLsbD (32 * bank.val + i) := by
  rw [levelWord_getLsbD s bank free hi, if_pos hout]

/-- One bit of a word, by itself in bit 0. -/
theorem oneBit_getLsbD (w : Word) (n i : Nat) :
    ((w >>> n) &&& 1#32).getLsbD i = (decide (i = 0) && w.getLsbD n) := by
  rw [BitVec.getLsbD_and, BitVec.getLsbD_ushiftRight, BitVec.getLsbD_one]
  cases i <;> simp

/-- HOST reads the level of a pin inside the window (40 R129). -/
theorem gpioLevelStep_inside {s : State} {pin : Nat} (hpin : pin < 64)
    (hwin : 0x34 + 4 * (pin / 32) < s.cfg.winGpio) (rest : List HostOp) :
    s.gpioLevelStep pin rest = (s.withOps rest).regReadFree
      ((s.levelWord (pinBank pin) s.free >>> (pin % 32)) &&& 1#32) := by
  have hdec := decode_gpioRead s.cfg (pinBank pin)
  rw [pinBank_val hpin, if_neg (Nat.not_le.2 hwin)] at hdec
  rw [State.gpioLevelStep, if_pos hpin, issues_of_ok hdec]

theorem gpioLevelStep_outside {s : State} {pin : Nat} (hpin : pin < 64)
    (hwin : s.cfg.winGpio ≤ 0x34 + 4 * (pin / 32)) (rest : List HostOp) :
    s.gpioLevelStep pin rest = .refused (.badEncoding .outOfWindow) := by
  have hdec := decode_gpioRead s.cfg (pinBank pin)
  rw [pinBank_val hpin, if_pos hwin] at hdec
  rw [State.gpioLevelStep, if_pos hpin, issues_of_error hdec]

theorem pseudoTurn_listed {p : Pseudo} (h : pseudoListed p = true) (s : State) :
    s.pseudoTurn p = .next (s.beginPseudo p) := if_pos h

theorem pseudoTurn_unlisted {p : Pseudo} (h : ¬pseudoListed p = true) (s : State) :
    s.pseudoTurn p = .refused .noSuchPin := if_neg h

/-- Settles O42: the level word bit by bit, and the one bit of it that a pin operation returns. -/
theorem levelReadShowsOutputs : Obligations.LevelReadShowsOutputs := by
  intro s
  refine ⟨fun bank => ⟨s.levelWord bank s.free, rfl, fun i hi hpins h60 hfn => ?_⟩,
    fun pin rest => ⟨fun hpin => ?_, fun hpin hwin => ?_, fun hpin hwin => ?_, fun hpin => ?_⟩⟩
  · exact levelWord_output hi ((pinIsOut_iff s _).2 ⟨hpins, h60, hfn⟩) _
  · exact pseudoTurn_listed (p := .gpioRead pin) (decide_eq_true hpin) s
  · refine ⟨_, gpioLevelStep_inside hpin hwin rest, fun i hi => ?_, fun hpins h60 hfn => ?_⟩
    · rw [oneBit_getLsbD, decide_eq_false (by omega), Bool.false_and]
    · have hplace : 32 * (pinBank pin).val + pin % 32 = pin := by
        rw [pinBank_val hpin]
        exact Nat.div_add_mod pin 32
      have hout : s.pinIsOut (32 * (pinBank pin).val + pin % 32) = true := by
        rw [hplace]
        exact (pinIsOut_iff s pin).2 ⟨hpins, h60, hfn⟩
      rw [oneBit_getLsbD, levelWord_output (Nat.mod_lt pin (by decide)) hout, hplace]
      rfl
  · exact ⟨_, gpioLevelStep_outside hpin hwin rest⟩
  · exact pseudoTurn_unlisted (mt of_decide_eq_true (Nat.not_lt.2 hpin)) s

/-! ### Pull settings -/

/-- The pull of a pin after a clock write: the mode where the pin's bit of the mask is 1 (40 R130). -/
theorem setPulls_getD (pull : List Pull) (mask : BitVec 64) (mode : Pull) {p : Nat} (hp : p < 64) :
    (setPulls pull mask mode).getD p .none = if mask.getLsbD p then mode else pull.getD p .none := by
  simp [setPulls, hp]

/-- HOST programs the pull of a pin inside the window: both registers of the sequence are reached
(40 R130). -/
theorem gpioPullStep_inside {s : State} {pin : Nat} (hpin : pin < 64)
    (hwin : 0x98 + 4 * (pin / 32) < s.cfg.winGpio) (mode : Pull) (rest : List HostOp) :
    s.gpioPullStep pin mode rest = .next ((s.withGpio { s.gpio with
      pull := s.gpio.pull.set pin mode, pullCtl := 0#32 }).withOps rest) := by
  have hpud := decode_gpioPud s.cfg 0#32
  rw [if_neg (by omega)] at hpud
  have hclk := decode_gpioPudclk s.cfg (pinBank pin) (pinBit pin)
  rw [pinBank_val hpin, if_neg (Nat.not_le.2 hwin)] at hclk
  rw [State.gpioPullStep, if_pos hpin, issues_of_ok hpud, issues_of_ok hclk]

/-- Outside it the sequence is refused, at the pull-control register or at the clock register. -/
theorem gpioPullStep_outside {s : State} {pin : Nat} (hpin : pin < 64)
    (hwin : s.cfg.winGpio ≤ 0x98 + 4 * (pin / 32)) (mode : Pull) (rest : List HostOp) :
    s.gpioPullStep pin mode rest = .refused (.badEncoding .outOfWindow) := by
  have hclk := decode_gpioPudclk s.cfg (pinBank pin) (pinBit pin)
  rw [pinBank_val hpin, if_pos hwin] at hclk
  rw [State.gpioPullStep, if_pos hpin, issues_of_error hclk]
  have hpud := decode_gpioPud s.cfg 0#32
  split_ifs at hpud
  · exact issues_of_error hpud _
  · exact issues_of_ok hpud _

/-- Settles O43: the clock write pin by pin, the modes of the control values, and the one-step sequence. -/
theorem pullProgramming : Obligations.PullProgramming := by
  intro s bank v
  refine ⟨rfl, ⟨_, pullMode s.gpio.pullCtl s.free, rfl, fun b i hi => ?_, fun h0 => ?_, fun h1 => ?_,
    fun h2 => ?_⟩, fun pin m rest => ⟨fun hpin => ?_, fun hpin hwin => ?_, fun hpin hwin => ?_,
    fun hpin => ?_⟩⟩
  · rw [setPulls_getD _ _ _ (by omega), bankMask_getLsbD bank b v hi]
    simp
  · rw [h0]; rfl
  · rw [h1]; rfl
  · rw [h2]; rfl
  · exact pseudoTurn_listed (p := .gpioPull pin m) (decide_eq_true hpin) s
  · exact gpioPullStep_inside hpin hwin m rest
  · exact ⟨_, gpioPullStep_outside hpin hwin m rest⟩
  · exact pseudoTurn_unlisted (mt of_decide_eq_true (Nat.not_lt.2 hpin)) s

end Sys2Proof.Machine
end

section
/-! SUPPORT. The chain of descriptors (41_descriptor_chain): a descriptor's number and its coordinates (41
R141), what the builder writes for them (R142, R143), the cycle of `next` (R147), the partition (R146) and
the position table (R148, R149). -/

namespace Sys2Proof.Machine

/-! ### Numbers and coordinates -/

theorem row_div {size r : Nat} (k : Nat) (hr : r < size) : (k * size + r) / size = k := by
  rw [Nat.mul_comm, Nat.mul_add_div (by omega), Nat.div_eq_of_lt hr, Nat.add_zero]

theorem nDesc_eq (c : Cfg) : c.nDesc = 2 * c.descPerBuf := by
  simp only [Cfg.nDesc, Cfg.descPerBuf]
  ring

/-- A descriptor's number: its buffer's first number and the offset in the buffer's table. -/
theorem descIdx_eq (c : Cfg) (k p ch d : Nat) :
    c.descIdx k p ch d = k * c.descPerBuf + (4 * p + 2 * ch + d) := by
  simp only [Cfg.descIdx, Cfg.descPerBuf]
  ring

/-- The parity of a number is its direction. -/
theorem descIdx_mod_two (c : Cfg) (k p ch : Nat) {d : Nat} (hd : d < 2) : c.descIdx k p ch d % 2 = d := by
  simp only [Cfg.descIdx]
  omega

section
variable {c : Cfg} {k p ch d : Nat} (hp : p < c.blockSize) (hch : ch < 2) (hd : d < 2)
include hp hch hd

theorem descOffset_lt : 4 * p + 2 * ch + d < c.descPerBuf := by
  simp only [Cfg.descPerBuf, nbrChannels]
  omega

theorem descIdx_lt (hk : k < 2) : c.descIdx k p ch d < c.nDesc := by
  have hoff := descOffset_lt hp hch hd
  have hrow : k * c.descPerBuf ≤ 1 * c.descPerBuf := Nat.mul_le_mul_right _ (by omega)
  rw [descIdx_eq, nDesc_eq]
  omega

theorem descIdx_div_descPerBuf : c.descIdx k p ch d / c.descPerBuf = k := by
  have hoff := descOffset_lt hp hch hd
  rw [descIdx_eq, row_div k hoff]

/-- The builder writes in the slot of a number the descriptor of the number's coordinates. -/
theorem chainDesc_descIdx : c.chainDesc (c.descIdx k p ch d) =
    if d = 0 then c.readDesc k p ch else c.writeDesc k p ch := by
  have hchan : c.descIdx k p ch d / 2 % 2 = ch := by simp only [Cfg.descIdx, nbrChannels]; omega
  have hframe : c.descIdx k p ch d / 2 / 2 = k * c.blockSize + p := by
    simp only [Cfg.descIdx, nbrChannels]; omega
  simp only [Cfg.chainDesc, nbrChannels, descIdx_mod_two c k p ch hd, hchan, hframe,
    Nat.mul_add_mod_of_lt hp, row_div k hp]

end

/-- Every number below `N_DESC` has coordinates. -/
theorem exists_descIdx {c : Cfg} {i : Nat} (hi : i < c.nDesc) :
    ∃ k < 2, ∃ p < c.blockSize, ∃ ch < 2, ∃ d < 2, i = c.descIdx k p ch d := by
  have hquarter : i / 4 < 2 * c.blockSize := by
    simp only [Cfg.nDesc, nbrBuffers, nbrChannels] at hi
    omega
  have hsize : 0 < c.blockSize := by omega
  have hframe := Nat.div_add_mod' (i / 4) c.blockSize
  refine ⟨i / 4 / c.blockSize, (Nat.div_lt_iff_lt_mul hsize).2 hquarter, i / 4 % c.blockSize,
    Nat.mod_lt _ hsize, i / 2 % 2, Nat.mod_lt _ two_pos, i % 2, Nat.mod_lt _ two_pos, ?_⟩
  simp only [Cfg.descIdx, nbrChannels]
  omega

/-! ### What the builder writes (41 R142 to R144) -/

theorem chainDesc_read {c : Cfg} {k p ch : Nat} (hp : p < c.blockSize) (hch : ch < 2) :
    c.chainDesc (c.descIdx k p ch 0) = c.readDesc k p ch :=
  chainDesc_descIdx hp hch two_pos

theorem chainDesc_write {c : Cfg} {k p ch : Nat} (hp : p < c.blockSize) (hch : ch < 2) :
    c.chainDesc (c.descIdx k p ch 1) = c.writeDesc k p ch :=
  chainDesc_descIdx hp hch one_lt_two

/-- Settles O7: the slots of the numbers hold the read and the write descriptor of their coordinates. -/
theorem builderDescriptorContents : Obligations.BuilderDescriptorContents :=
  fun _ _ _ _ _ hp hch => ⟨chainDesc_read hp hch, chainDesc_write hp hch⟩

theorem chainDesc_next {c : Cfg} {i : Nat} (hi : i < c.nDesc) :
    (c.chainDesc i).next = c.nextAddr i := by
  obtain ⟨k, -, p, hp, ch, hch, d, hd, rfl⟩ := exists_descIdx hi
  rw [chainDesc_descIdx hp hch hd]
  obtain rfl | rfl : d = 0 ∨ d = 1 := by omega
  · rfl
  · rfl

/-! ### The cycle (41 R147) -/

/-- The block ends where the Sample Region ends, and lies below `2^32` (00 R10, 20 R60). -/
theorem smpBus_add_regionBytes_le {c : Cfg} (hwf : c.wf = true) :
    c.smpBus + c.regionBytes ≤ 2 ^ 32 := by
  obtain ⟨-, -, hlen, -⟩ := (Cfg.wf_iff c).1 hwf
  simp only [Cfg.smpBus, Cfg.blockLen] at hlen ⊢
  omega

theorem descBus_add_le {c : Cfg} (hwf : c.wf = true) : c.descBus + 32 * c.nDesc ≤ 2 ^ 32 := by
  have hend := smpBus_add_regionBytes_le hwf
  simp only [Cfg.smpBus, Cfg.descBus] at hend ⊢
  omega

theorem descAddr_injective (c : Cfg) : Function.Injective c.descAddr := by
  intro i j h
  simp only [Cfg.descAddr] at h
  omega

/-- One hop leads to the following slot, from the last one to slot 0 (41 R144). -/
theorem chainHop_descAddr {c : Cfg} (hwf : c.wf = true) {i : Nat} (hi : i < c.nDesc) :
    chainHop c (c.descAddr i) = c.descAddr ((i + 1) % c.nDesc) := by
  have hslot : (c.descAddr i - c.descBus) / 32 = i := by simp only [Cfg.descAddr]; omega
  have hend := descBus_add_le hwf
  have hsucc : (i + 1) % c.nDesc < c.nDesc := Nat.mod_lt _ (by omega)
  have hfits : c.descAddr ((i + 1) % c.nDesc) < 2 ^ 32 := by
    simp only [Cfg.descAddr]
    omega
  rw [chainHop, hslot, chainDesc_next hi, Cfg.nextAddr, BitVec.toNat_ofNat, Nat.mod_eq_of_lt hfits]

theorem chainHop_iterate {c : Cfg} (hwf : c.wf = true) {i : Nat} (hi : i < c.nDesc) (n : Nat) :
    (chainHop c)^[n] (c.descAddr i) = c.descAddr ((i + n) % c.nDesc) := by
  induction n with
  | zero => rw [Function.iterate_zero_apply, Nat.add_zero, Nat.mod_eq_of_lt hi]
  | succ n ih =>
    rw [Function.iterate_succ_apply', ih, chainHop_descAddr hwf (Nat.mod_lt _ (by omega)),
      Nat.mod_add_mod, Nat.add_assoc]

/-- The rotation by `n` of the numbers below `N` takes `i` to `j` for one `n` below `N`. -/
theorem add_mod_eq_iff {N i j n : Nat} (hi : i < N) (hj : j < N) (hn : n < N) :
    (i + n) % N = j ↔ n = if i ≤ j then j - i else j + N - i := by
  rw [Nat.add_mod_eq_ite, Nat.mod_eq_of_lt hi, Nat.mod_eq_of_lt hn]
  split_ifs <;> omega

/-- Settles O9: the hops rotate the slots. -/
theorem chainIsOneCycle : Obligations.ChainIsOneCycle := by
  intro c i hwf hi
  have hhop : ∀ {j n}, (chainHop c)^[n] (c.descAddr i) = c.descAddr j ↔ (i + n) % c.nDesc = j := by
    intro j n
    rw [chainHop_iterate hwf hi, (descAddr_injective c).eq_iff]
  refine ⟨?_, fun n hpos hn => ?_, fun j hj => ?_⟩
  · rw [hhop, Nat.add_mod_right, Nat.mod_eq_of_lt hi]
  · rw [Ne, hhop, add_mod_eq_iff hi hi hn, if_pos le_rfl]
    omega
  · have hn : (if i ≤ j then j - i else j + c.nDesc - i) < c.nDesc := by split_ifs <;> omega
    exact ⟨_, hn, hhop.2 ((add_mod_eq_iff hi hj hn).2 rfl),
      fun n' hn' h => (add_mod_eq_iff hi hj hn').1 (hhop.1 h)⟩

/-! ### The partition (41 R146) -/

theorem blockSize_le_blockSizeA (c : Cfg) : c.blockSize ≤ c.blockSizeA := by
  simp only [Cfg.blockSizeA, roundUp]
  omega

section
variable {c : Cfg} {b p ch : Nat} (hp : p < c.blockSize) (hch : ch < 2)
include hp hch

theorem isSlot_slotAddr (hwf : c.wf = true) (hb : b < 4) :
    c.isSlot (slotAddr (bufferBase c b) p ch) = true :=
  have hpA := hp.trans_le (blockSize_le_blockSizeA c)
  (isSlot_iff (smpBus_aligned hwf) _).2
    ⟨_, (slotNumber_iff ..).2 ⟨b, hb, p, hpA, ch, hch, rfl⟩, slotAddr_bufferBase c b p ch⟩

theorem toNat_slotAddr (hwf : c.wf = true) (hb : b < 4) :
    (BitVec.ofNat 32 (slotAddr (bufferBase c b) p ch)).toNat = slotAddr (bufferBase c b) p ch := by
  have hslot := isSlot_slotAddr hp hch hwf hb
  have hend := smpBus_add_regionBytes_le hwf
  simp only [Cfg.isSlot, Bool.and_eq_true, decide_eq_true_eq] at hslot
  rw [BitVec.toNat_ofNat, Nat.mod_eq_of_lt (by omega)]

theorem slotAddr_lt_bufferEnd (base : Nat) : slotAddr base p ch < base + c.bufBytes := by
  have hpA := hp.trans_le (blockSize_le_blockSizeA c)
  simp only [slotAddr, Cfg.bufBytes, nbrChannels]
  omega

theorem inHalf_slotAddr {k d : Nat} (hd : d < 2) :
    c.inHalf k (slotAddr (bufferBase c (2 * d + k)) p ch) = true := by
  have hlo : bufferBase c (2 * d + k) ≤ slotAddr (bufferBase c (2 * d + k)) p ch := Nat.le_add_right ..
  have hhi := slotAddr_lt_bufferEnd hp hch (bufferBase c (2 * d + k))
  rw [inHalf_iff]
  obtain rfl | rfl : d = 0 ∨ d = 1 := by omega
  · rw [Nat.mul_zero, Nat.zero_add] at hlo hhi ⊢
    exact .inl ⟨hlo, hhi⟩
  · exact .inr ⟨hlo, hhi⟩

/-- A slot address tells its buffer, frame position and channel. -/
theorem slotAddr_injective {b' p' ch' : Nat} (hp' : p' < c.blockSize) (hch' : ch' < 2)
    (h : slotAddr (bufferBase c b) p ch = slotAddr (bufferBase c b') p' ch') :
    b = b' ∧ p = p' ∧ ch = ch' := by
  have hpA := hp.trans_le (blockSize_le_blockSizeA c)
  have hpA' := hp'.trans_le (blockSize_le_blockSizeA c)
  rw [slotAddr_bufferBase, slotAddr_bufferBase] at h
  have hrow : b * c.blockSizeA + p = b' * c.blockSizeA + p' := by omega
  obtain rfl : b = b' := by rw [← row_div b hpA, hrow, row_div b' hpA']
  omega

theorem readDesc_dst (hwf : c.wf = true) {k : Nat} (hk : k < 2) :
    (c.readDesc k p ch).dst.toNat = slotAddr (bufferBase c k) p ch :=
  toNat_slotAddr hp hch hwf (by omega)

theorem writeDesc_src (hwf : c.wf = true) {k : Nat} (hk : k < 2) :
    (c.writeDesc k p ch).src.toNat = slotAddr (bufferBase c (2 + k)) p ch :=
  toNat_slotAddr (b := 2 + k) hp hch hwf (by omega)

theorem readDesc_isRx (hwf : c.wf = true) {k : Nat} (hk : k < 2) : (c.readDesc k p ch).isRx c = true := by
  rw [Laws.isRx_iff, readDesc_dst hp hch hwf hk]
  exact ⟨show tiRx &&& _ = _ by decide, rfl, isSlot_slotAddr hp hch hwf (by omega), rfl, rfl⟩

theorem writeDesc_isTx (hwf : c.wf = true) {k : Nat} (hk : k < 2) : (c.writeDesc k p ch).isTx c = true := by
  rw [Laws.isTx_iff, writeDesc_src hp hch hwf hk]
  exact ⟨show tiTx &&& _ = _ by decide, rfl, isSlot_slotAddr hp hch hwf (by omega), rfl, rfl⟩

end

/-- The memory-side address of the builder's descriptor in slot `j`: a read's destination, a write's source. -/
def chainSide (c : Cfg) (j : Nat) : Word :=
  if j % 2 = 0 then (c.chainDesc j).dst else (c.chainDesc j).src

/-- The memory side of a read is a slot of the input buffer, that of a write a slot of the output buffer:
the buffer `2 * d + k` in the order of the Sample Region. -/
theorem chainSide_descIdx {c : Cfg} (hwf : c.wf = true) {k p ch d : Nat} (hk : k < 2)
    (hp : p < c.blockSize) (hch : ch < 2) (hd : d < 2) :
    (chainSide c (c.descIdx k p ch d)).toNat = slotAddr (bufferBase c (2 * d + k)) p ch := by
  rw [chainSide, descIdx_mod_two c k p ch hd, chainDesc_descIdx hp hch hd]
  obtain rfl | rfl : d = 0 ∨ d = 1 := by omega
  · rw [Nat.mul_zero, Nat.zero_add]
    exact readDesc_dst hp hch hwf hk
  · exact writeDesc_src hp hch hwf hk

section
variable {c : Cfg} {i : Nat} (hwf : c.wf = true) (hi : i < c.nDesc)
include hwf hi

/-- An even slot holds a read into a slot of its buffer (41 R142). -/
theorem chainDesc_even (heven : i % 2 = 0) : (c.chainDesc i).isRx c = true ∧
    ∃ p < c.blockSize, ∃ ch < 2,
      (chainSide c i).toNat = slotAddr (c.inBase (i / c.descPerBuf)) p ch := by
  obtain ⟨k, hk, p, hp, ch, hch, d, hd, rfl⟩ := exists_descIdx hi
  obtain rfl : d = 0 := by rwa [descIdx_mod_two c k p ch hd] at heven
  rw [descIdx_div_descPerBuf hp hch hd, chainDesc_read hp hch, chainSide_descIdx hwf hk hp hch hd,
    Nat.mul_zero, Nat.zero_add]
  exact ⟨readDesc_isRx hp hch hwf hk, p, hp, ch, hch, rfl⟩

/-- An odd slot holds a write from a slot of its buffer (41 R143). -/
theorem chainDesc_odd (hodd : i % 2 = 1) : (c.chainDesc i).isTx c = true ∧
    ∃ p < c.blockSize, ∃ ch < 2,
      (chainSide c i).toNat = slotAddr (c.outBase (i / c.descPerBuf)) p ch := by
  obtain ⟨k, hk, p, hp, ch, hch, d, hd, rfl⟩ := exists_descIdx hi
  obtain rfl : d = 1 := by rwa [descIdx_mod_two c k p ch hd] at hodd
  rw [descIdx_div_descPerBuf hp hch hd, chainDesc_write hp hch, chainSide_descIdx hwf hk hp hch hd]
  exact ⟨writeDesc_isTx hp hch hwf hk, p, hp, ch, hch, rfl⟩

theorem chainSide_inHalf : c.inHalf (i / c.descPerBuf) (chainSide c i).toNat = true := by
  obtain ⟨k, hk, p, hp, ch, hch, d, hd, rfl⟩ := exists_descIdx hi
  rw [descIdx_div_descPerBuf hp hch hd, chainSide_descIdx hwf hk hp hch hd]
  exact inHalf_slotAddr hp hch hd

theorem chainSide_injective {j : Nat} (hj : j < c.nDesc) (h : chainSide c j = chainSide c i) : j = i := by
  obtain ⟨k, hk, p, hp, ch, hch, d, hd, rfl⟩ := exists_descIdx hi
  obtain ⟨k', hk', p', hp', ch', hch', d', hd', rfl⟩ := exists_descIdx hj
  have haddr := congrArg BitVec.toNat h
  rw [chainSide_descIdx hwf hk hp hch hd, chainSide_descIdx hwf hk' hp' hch' hd'] at haddr
  obtain ⟨hbuf, rfl, rfl⟩ := slotAddr_injective hp' hch' hp hch haddr
  obtain ⟨rfl, rfl⟩ : k' = k ∧ d' = d := by omega
  rfl

end

/-- Settles O10: the memory side of a number's descriptor is the slot of the number's coordinates. -/
theorem chainStaysInItsHalf : Obligations.ChainStaysInItsHalf := by
  intro c i hwf hi
  have hhalf := chainSide_inHalf hwf hi
  refine ⟨chainDesc_even hwf hi, chainDesc_odd hwf hi, hhalf, inDescArea_eq_false_of_inHalf hhalf,
    fun j hj => chainSide_injective hwf hi hj, fun b hb p hp ch hch => ⟨?_, ?_⟩⟩
  · refine ⟨_, descIdx_lt hp hch two_pos hb, descIdx_mod_two c b p ch two_pos, ?_⟩
    exact (chainSide_descIdx hwf hb hp hch two_pos).trans (by rw [Nat.mul_zero, Nat.zero_add, inBase_eq])
  · exact ⟨_, descIdx_lt hp hch one_lt_two hb, descIdx_mod_two c b p ch one_lt_two,
      chainSide_descIdx hwf hb hp hch one_lt_two⟩

/-! ### The position table (41 R148, R149) -/

theorem descBase_eq (c : Cfg) (k : Nat) : c.descBase k = c.descBus + 32 * (k * c.descPerBuf) := by
  rw [Cfg.descBase, Nat.mul_assoc]

theorem descBase_zero (c : Cfg) : c.descBase 0 = c.descBus := by
  rw [descBase_eq, Nat.zero_mul, Nat.mul_zero, Nat.add_zero]

theorem descBase_one (c : Cfg) : c.descBase 1 = c.descBus + 32 * c.descPerBuf := by
  rw [descBase_eq, Nat.one_mul]

/-- The search finds the table an address lies in, and the offset in the table tells the rest. -/
theorem decodePosition_descBase_add (c : Cfg) (k : Fin 2) {n : Nat} (hn : n < c.descPerBuf) :
    decodePosition c (c.descBase 0) (c.descBase 1) (c.descBase k + 32 * n) =
      some { buffer := k, frame := n / 4, chan := n / 2 % 2, dir := n % 2 } := by
  have hnext : c.descBase 1 = c.descBase 0 + 32 * c.descPerBuf := by rw [descBase_one, descBase_zero]
  have hslot : ∀ base, (base + 32 * n - base) / 32 = n := fun _ => by omega
  match k with
  | 0 =>
    rw [Fin.val_zero, decodePosition, if_pos ⟨Nat.le_add_right .., Nat.add_lt_add_left (by omega) _⟩]
    simp only [hslot, nbrChannels, Nat.reduceMul]
  | 1 =>
    rw [Fin.val_one, decodePosition, if_neg (by omega),
      if_pos ⟨Nat.le_add_right .., Nat.add_lt_add_left (by omega) _⟩]
    simp only [hslot, nbrChannels, Nat.reduceMul]

/-- Settles O11: a number is its offset in the table of its buffer. -/
theorem positionRoundTrip : Obligations.PositionRoundTrip := by
  intro c k p ch d hp hch hd
  have haddr : c.descAddr (c.descIdx k p ch d) = c.descBase k + 32 * (4 * p + 2 * ch + d) := by
    simp only [Cfg.descAddr, descIdx_eq, descBase_eq]
    omega
  have hframe : (4 * p + 2 * ch + d) / 4 = p := by omega
  have hchan : (4 * p + 2 * ch + d) / 2 % 2 = ch := by omega
  have hdir : (4 * p + 2 * ch + d) % 2 = d := by omega
  rw [haddr, decodePosition_descBase_add c k (descOffset_lt hp hch hd), hframe, hchan, hdir]

end Sys2Proof.Machine
end

section
/-! SUPPORT. CHAIN.BUILD (41 R140, R151, 30 R104): HOST's walk over the words of the descriptor area. -/

namespace Sys2Proof.Machine

/-! ### The words the walk writes -/

/-- Memory with the first `n` words of the builder's chain written over `m`. -/
def chainMem (c : Cfg) (m : List Host.Cell) : Nat → List Host.Cell
  | 0 => m
  | n + 1 => Memory.writeWord (chainMem c m n) (c.descBus + 4 * n) (descWord (c.chainDesc (n / 8)) (n % 8))

section
variable {c : Cfg} {m : List Host.Cell}

theorem chainMem_wf (hm : Memory.wf m = true) (n : Nat) : Memory.wf (chainMem c m n) = true := by
  induction n with
  | zero => exact hm
  | succ n ih => exact Memory.writeWord_wf _ _ ih

theorem readWord_chainMem (hm : Memory.wf m = true) {i n : Nat} (hi : i < n) :
    Memory.readWord (chainMem c m n) (c.descBus + 4 * i) = descWord (c.chainDesc (i / 8)) (i % 8) := by
  induction n with
  | zero => omega
  | succ n ih =>
    rw [chainMem]
    obtain hlt | rfl : i < n ∨ i = n := by omega
    · rw [Memory.readWord_writeWord_of_disjoint _ _ (by omega), ih hlt]
    · exact Memory.readWord_writeWord_self _ _ (chainMem_wf hm i)

theorem readByte_chainMem_of_outside {a n : Nat} (ha : a < c.descBus ∨ c.descBus + 4 * n ≤ a) :
    Memory.readByte (chainMem c m n) a = Memory.readByte m a := by
  induction n with
  | zero => rfl
  | succ n ih => rw [chainMem, Memory.readByte_writeWord_of_outside _ _ (by omega), ih (by omega)]

end

/-! ### HOST's turns -/

theorem hostTurns_succ {n : Nat} {s t : State} (h : s.hostTurns n = .next t) :
    s.hostTurns (n + 1) = t.hostTurn := by
  induction n generalizing s with
  | zero =>
    obtain rfl : s = t := by simpa [State.hostTurns] using h
    rw [State.hostTurns]
    cases s.hostTurn <;> rfl
  | succ n ih =>
    rw [State.hostTurns] at h ⊢
    cases hturn : s.hostTurn with
    | next u => exact ih (by simpa only [hturn] using h)
    | fault f => simp [hturn] at h
    | refused r => simp [hturn] at h

theorem hostTurn_of_ops {s : State} {op : HostOp} {rest : List HostOp} (hfault : s.host.loopFault = none)
    (hops : s.host.ops = op :: rest) : s.hostTurn = s.hostOpStep op rest := by
  simp [State.hostTurn, hops, hfault]

/-- With the channel inactive HOST may write every word of the block (20 R67). -/
theorem hostWrite_of_inactive {s : State} (hactive : s.dma.active = false) {a : Word}
    (hport : a ≠ s.cfg.pcmFifoBus) (hword : s.wordInBlock a = true) (v : Word) :
    s.hostWrite a v = .ok (s.withMem (Memory.writeWord s.mem a.toNat v)) := by
  have hlive : s.isLive a.toNat = false := by simp [← Bool.not_eq_true, isLive_iff, hactive]
  rw [hostWrite_word hport hword, hactive, hlive]
  rfl

/-- No word of the block is the FIFO's bus address (00 R10). -/
theorem ne_pcmFifoBus_of_wordInBlock {s : State} (hwf : s.cfg.wf = true) {a : Word}
    (hword : s.wordInBlock a = true) : a ≠ s.cfg.pcmFifoBus := by
  rintro rfl
  obtain ⟨-, -, -, hapart, -⟩ := (Cfg.wf_iff s.cfg).1 hwf
  obtain ⟨-, hblock⟩ := (wordInBlock_iff ..).1 hword
  simp only [Cfg.inBlock, Bool.and_eq_true, decide_eq_true_eq] at hblock
  exact hapart _ hblock.1 (by omega) ⟨le_rfl, by omega⟩

/-- The words of the descriptor area lie in the block, at the addresses they are counted by. -/
theorem descAreaWord {s : State} (hwf : s.cfg.wf = true) {i : Nat} (hi : i < 8 * s.cfg.nDesc) :
    (busAddr (s.cfg.descBus + 4 * i)).toNat = s.cfg.descBus + 4 * i ∧
      s.wordInBlock (busAddr (s.cfg.descBus + 4 * i)) = true := by
  obtain ⟨-, halign, hlen, -⟩ := (Cfg.wf_iff s.cfg).1 hwf
  have haddr : (busAddr (s.cfg.descBus + 4 * i)).toNat = s.cfg.descBus + 4 * i := by
    have hend := descBus_add_le hwf
    rw [busAddr, BitVec.toNat_ofNat, Nat.mod_eq_of_lt (by omega)]
  refine ⟨haddr, (wordInBlock_iff ..).2 ?_⟩
  rw [haddr]
  simp only [Cfg.inBlock, Bool.and_eq_true, decide_eq_true_eq]
  simp only [Cfg.descBus, Cfg.blockLen]
  omega

/-- The state of the walk when `n` words are written, with the operations that follow it. -/
def State.chainBuilt (s : State) (n : Nat) (after : List HostOp) : State :=
  (s.withMem (chainMem s.cfg s.mem n)).withOps (.chainBuild n :: after)

section
variable {s : State} (hwf : s.cfg.wf = true) (hactive : s.dma.active = false)
  (hfault : s.host.loopFault = none)
include hwf hactive hfault

theorem chainBuilt_hostTurn {n : Nat} (hn : n < 8 * s.cfg.nDesc) (after : List HostOp) :
    (s.chainBuilt n after).hostTurn = .next (s.chainBuilt (n + 1) after) := by
  obtain ⟨haddr, hword⟩ := descAreaWord (s := s.chainBuilt n after) hwf hn
  have hwrite := hostWrite_of_inactive (s := s.chainBuilt n after) hactive
    (ne_pcmFifoBus_of_wordInBlock hwf hword) hword (descWord (s.cfg.chainDesc (n / 8)) (n % 8))
  rw [haddr] at hwrite
  calc (s.chainBuilt n after).hostTurn
      = (s.chainBuilt n after).chainBuildStep n after :=
        hostTurn_of_ops (s := s.chainBuilt n after) hfault rfl
    _ = (s.chainBuilt n after).walkWrite (busAddr (s.cfg.descBus + 4 * n))
          (descWord (s.cfg.chainDesc (n / 8)) (n % 8)) (.chainBuild (n + 1) :: after) := if_pos hn
    _ = .next (s.chainBuilt (n + 1) after) := by
      rw [State.walkWrite]
      exact hwrite ▸ rfl

/-- `n` turns of the walk write the first `n` words. -/
theorem hostTurns_chainBuild {after : List HostOp} (hops : s.host.ops = .chainBuild 0 :: after) {n : Nat}
    (hn : n ≤ 8 * s.cfg.nDesc) : s.hostTurns n = .next (s.chainBuilt n after) := by
  induction n with
  | zero => rw [State.chainBuilt, ← hops]; rfl
  | succ n ih =>
    rw [hostTurns_succ (ih (by omega)), chainBuilt_hostTurn hwf hactive hfault hn]

end

/-- The walk ends after the last word of the last descriptor. -/
theorem chainBuilt_hostTurn_last {s : State} (hfault : s.host.loopFault = none) (after : List HostOp) :
    (s.chainBuilt (8 * s.cfg.nDesc) after).hostTurn =
      .next ((s.withMem (chainMem s.cfg s.mem (8 * s.cfg.nDesc))).withOps after) :=
  (hostTurn_of_ops (s := s.chainBuilt _ after) hfault rfl).trans (if_neg (Nat.lt_irrefl _))

/-- The operation after the walk records the bases of the two tables (41 R145). -/
theorem chainBases_hostTurn {s : State} (hfault : s.host.loopFault = none) (m : List Host.Cell)
    (rest : List HostOp) : ((s.withMem m).withOps (.chainBases :: rest)).hostTurn =
      .next { s with
        mem := m
        host := { s.host with
          ops := rest
          descBase0 := BitVec.ofNat 32 s.cfg.descBus
          descBase1 := BitVec.ofNat 32 (s.cfg.descBus + 32 * s.cfg.descPerBuf) } } := by
  rw [← descBase_one, ← descBase_zero]
  exact hostTurn_of_ops (s := (s.withMem m).withOps (.chainBases :: rest)) hfault rfl

/-- Settles O8: a turn for each word, one that ends the walk, and one that records the two bases. -/
theorem chainBuildWritesEveryDescriptor : Obligations.ChainBuildWritesEveryDescriptor := by
  intro s rest hwf hm hactive hfault hops
  refine ⟨chainMem s.cfg s.mem (8 * s.cfg.nDesc), ?_, fun i hi j hj => ?_, fun a ha => ?_⟩
  · have hwalk := hostTurns_chainBuild hwf hactive hfault hops le_rfl
    have hend := (hostTurns_succ hwalk).trans (chainBuilt_hostTurn_last hfault _)
    exact (hostTurns_succ hend).trans (chainBases_hostTurn hfault _ rest)
  · have hword := readWord_chainMem (c := s.cfg) hm (show 8 * i + j < 8 * s.cfg.nDesc by omega)
    rwa [show (8 * i + j) / 8 = i by omega, show (8 * i + j) % 8 = j by omega,
      show s.cfg.descBus + 4 * (8 * i + j) = s.cfg.descBus + 32 * i + 4 * j by omega] at hword
  · refine readByte_chainMem_of_outside ?_
    rw [← Bool.not_eq_true, inDescArea_iff] at ha
    simp only [Cfg.smpBus, Cfg.descBus] at ha ⊢
    omega

end Sys2Proof.Machine
end

section
/-! SUPPORT. The engine's invariant (42 R163, R168, 60 R309): every descriptor that decodes as a transfer is
admitted, so the engine loads no other; an admitted descriptor raises no interrupt; HOST's sequences hold no
descriptor. Followed through every operation that a step is made of. -/

namespace Sys2Proof.Machine

/-! ### Admitted descriptors (30 R94) -/

/-- The words select one of the two kinds the engine runs. -/
def AdmittedDesc (c : Cfg) (d : Desc) : Prop := d.isRx c = true ∨ d.isTx c = true

/-- An instruction that carries a descriptor of the kind it names, or none. -/
def AdmittedInstr (c : Cfg) : Instr → Prop
  | .xferRx d => d.isRx c = true
  | .xferTx d => d.isTx c = true
  | _ => True

/-- The mask of 30 R94 covers `TI.INTEN`, and both kinds have it 0. -/
theorem AdmittedDesc.inten {c : Cfg} {d : Desc} (h : AdmittedDesc c d) : tiInten d.ti = false := by
  have hbit {v : Word} (hti : d.ti &&& 0x001F0FF3#32 = v) : tiInten d.ti = v.getLsbD 0 := by
    simp [← hti, tiInten]
  obtain h | h := h
  · exact hbit ((Laws.isRx_iff c d).1 h).1
  · exact hbit ((Laws.isTx_iff c d).1 h).1

/-- What decodes is admitted: a tuple and a converter operation are no descriptor. -/
theorem decode_admitted {c : Cfg} {e : Encoded} {i : Instr} (h : decode c e = .ok i) :
    AdmittedInstr c i := by
  cases e with
  | desc d =>
    obtain rfl := (Laws.decode_desc_ok c d i).1 h
    unfold decodeDesc
    split_ifs with hrx htx
    · exact hrx
    · exact htx
    · trivial
  | reg w =>
    have henc := Laws.encode_of_decodeReg h
    cases i with
    | xferRx d | xferTx d => exact nomatch henc
    | _ => trivial
  | cvt sel w0 w1 w2 w3 =>
    cases h
    unfold decodeCvt
    split_ifs <;> trivial

/-! ### The invariant in parts -/

/-- The invariant of the engine, part by part. -/
structure State.EngineSound (s : State) : Prop where
  loaded : s.dma.isLoaded = true → AdmittedDesc s.cfg s.loadedDesc
  intF : s.dma.intF = false
  ops : s.host.ops.all HostOp.isHost = true

theorem State.engineInv_iff (s : State) : s.engineInv = true ↔ s.EngineSound := by
  have himp : ∀ l r t : Bool, (!l || r || t) = true ↔ (l = true → r = true ∨ t = true) := by decide
  simp only [State.engineInv, Bool.and_eq_true, himp, Bool.not_eq_true']
  exact ⟨fun ⟨⟨hloaded, hint⟩, hops⟩ => ⟨hloaded, hint, hops⟩,
    fun ⟨hloaded, hint, hops⟩ => ⟨⟨hloaded, hint⟩, hops⟩⟩

/-- The invariant reads the configuration, the channel and HOST's pending operations. -/
theorem State.EngineSound.of_ops {s t : State} (hs : s.EngineSound) (hcfg : t.cfg = s.cfg)
    (hdma : t.dma = s.dma) (hops : t.host.ops.all HostOp.isHost = true) : t.EngineSound where
  loaded := by
    have hdesc : t.loadedDesc = s.loadedDesc := by simp only [State.loadedDesc, hdma]
    rw [hcfg, hdma, hdesc]
    exact hs.loaded
  intF := hdma ▸ hs.intF
  ops := hops

theorem State.EngineSound.of_eq {s t : State} (hs : s.EngineSound) (hcfg : t.cfg = s.cfg)
    (hdma : t.dma = s.dma) (hops : t.host.ops = s.host.ops) : t.EngineSound :=
  hs.of_ops hcfg hdma (hops ▸ hs.ops)

/-- Whatever next state the outcome gives meets the engine's invariant. -/
def EngineSoundOutcome (r : Res) : Prop := ∀ t, r = .next t → t.EngineSound

theorem engineSound_next {s : State} (h : s.EngineSound) : EngineSoundOutcome (.next s) := by
  rintro _ ⟨⟩
  exact h

theorem engineSound_refused (r : Refusal) : EngineSoundOutcome (.refused r) := fun _ h => nomatch h

theorem engineSound_ite {p : Prop} [Decidable p] {r r' : Res} (h : EngineSoundOutcome r)
    (h' : EngineSoundOutcome r') : EngineSoundOutcome (if p then r else r') := by
  split
  · exact h
  · exact h'

theorem engineSound_refusedUnless {p : Prop} [Decidable p] {r : Res} (h : EngineSoundOutcome r)
    (e : Refusal) : EngineSoundOutcome (if p then r else .refused e) :=
  engineSound_ite h (engineSound_refused e)

theorem engineSound_refusedIf {p : Prop} [Decidable p] {r : Res} (h : EngineSoundOutcome r)
    (e : Refusal) : EngineSoundOutcome (if p then .refused e else r) :=
  engineSound_ite (engineSound_refused e) h

theorem onChannel_engineSound {s : State} {r : Res} (h : EngineSoundOutcome r) (ch : BitVec 4) :
    EngineSoundOutcome (s.onChannel ch r) :=
  engineSound_refusedUnless h _

theorem programs_engineSound {s : State} {r : Res} (h : EngineSoundOutcome r) :
    EngineSoundOutcome (s.programs r) :=
  engineSound_refusedUnless h _

theorem issues_engineSound {s : State} {i : Instr} {r : Res} (h : EngineSoundOutcome r) :
    EngineSoundOutcome (s.issues i r) :=
  fun t ht => h t (issues_next ht)

theorem portRead_engineSound {x : Access (Word × State)} (h : ∀ w t, x = .ok (w, t) → t.EngineSound) :
    EngineSoundOutcome (portRead x) := by
  intro t ht
  obtain ⟨w, u, hx, rfl⟩ := portRead_next ht
  exact (h w u hx).of_eq rfl rfl rfl

theorem portWrite_engineSound {x : Access State} (h : ∀ t, x = .ok t → t.EngineSound) :
    EngineSoundOutcome (portWrite x) :=
  fun t ht => h t (portWrite_next ht)

/-! ### Operations of HOST's sequences -/

theorem prefillOps_isHost (n : Nat) : (prefillOps n).all HostOp.isHost = true :=
  List.all_eq_true.2 fun _ hop => List.eq_of_mem_replicate hop ▸ rfl

theorem pseudoOps_isHost (p : Pseudo) : (pseudoOps p).all HostOp.isHost = true := by
  cases p with
  | prefill n => exact prefillOps_isHost n
  | gpioWrite pin v => cases v <;> rfl
  | _ => rfl

theorem startOps_isHost (c : Cfg) : (startOps c).all HostOp.isHost = true := by
  simp only [startOps, List.all_append, prefillOps_isHost]
  rfl

/-! ### Updates of a sound state -/

section
variable {s : State} (hs : s.EngineSound)
include hs

theorem withOps_engineSound {ops : List HostOp} (hops : ops.all HostOp.isHost = true) :
    (s.withOps ops).EngineSound :=
  hs.of_ops rfl rfl hops

theorem withPcm_engineSound (p : PcmState) : (s.withPcm p).EngineSound := hs.of_eq rfl rfl rfl

theorem withGpio_engineSound (g : GpioState) : (s.withGpio g).EngineSound := hs.of_eq rfl rfl rfl

/-- The channel is left with no descriptor loaded. -/
theorem withDma_unloaded_engineSound {d : DmaState} (hloaded : d.isLoaded = false)
    (hint : d.intF = false) : (s.withDma d).EngineSound :=
  ⟨fun h => absurd (hloaded.symm.trans h) (by decide), hint, hs.ops⟩

/-- The channel keeps the descriptor it has loaded, if it has one. -/
theorem withDma_engineSound {d : DmaState} (hloaded : d.isLoaded = s.dma.isLoaded)
    (hdesc : (s.withDma d).loadedDesc = s.loadedDesc) (hint : d.intF = false) :
    (s.withDma d).EngineSound :=
  ⟨fun h => hdesc ▸ hs.loaded (hloaded ▸ h), hint, hs.ops⟩

theorem recordDmaFault_engineSound (f : Fault) : (s.recordDmaFault f).EngineSound :=
  ⟨hs.loaded, hs.intF, hs.ops⟩

theorem returns_engineSound (r : HostResult) : (s.returns r).EngineSound := hs.of_eq rfl rfl rfl

theorem regRead_engineSound (v : Word) : EngineSoundOutcome (s.regRead v) :=
  engineSound_next (returns_engineSound hs _)

theorem regReadFree_engineSound (v : Word) : EngineSoundOutcome (s.regReadFree v) :=
  engineSound_next (hs.of_eq rfl rfl rfl)

/-! ### Accesses to the FIFO port and to memory -/

theorem popRx_engineSound {t : State} {w : Word} (h : s.popRx = .ok (w, t)) : t.EngineSound := by
  obtain ⟨r, -, rfl⟩ := popRx_ok h
  exact hs.of_eq rfl rfl rfl

theorem pushTx_engineSound {t : State} {v : Word} (h : s.pushTx v = .ok t) : t.EngineSound := by
  obtain ⟨-, rfl⟩ := pushTx_ok h
  exact hs.of_eq rfl rfl rfl

theorem busRead_engineSound {t : State} {a w : Word} (h : s.busRead a = .ok (w, t)) :
    t.EngineSound := by
  obtain ⟨-, r, -, rfl⟩ | ⟨-, -, -, rfl⟩ := busRead_ok h
  · exact hs.of_eq rfl rfl rfl
  · exact hs

theorem busWrite_engineSound {t : State} {a v : Word} (h : s.busWrite a v = .ok t) :
    t.EngineSound := by
  obtain ⟨-, -, rfl⟩ | ⟨-, -, rfl⟩ := busWrite_ok h <;> exact hs.of_eq rfl rfl rfl

theorem hostRead_engineSound {t : State} {a w : Word} (h : s.hostRead a = .ok (w, t)) :
    t.EngineSound := by
  obtain ⟨-, -, r, -, rfl⟩ | ⟨-, -, -, rfl⟩ := hostRead_ok h
  · exact hs.of_eq rfl rfl rfl
  · split
    · exact hs.of_eq rfl rfl rfl
    · exact hs

theorem hostWrite_engineSound {t : State} {a v : Word} (h : s.hostWrite a v = .ok t) :
    t.EngineSound := by
  obtain ⟨-, -, -, rfl⟩ | ⟨-, -, -, -, rfl⟩ := hostWrite_ok h <;> exact hs.of_eq rfl rfl rfl

theorem walkWrite_engineSound {rest : List HostOp} (hrest : rest.all HostOp.isHost = true)
    (a v : Word) : EngineSoundOutcome (s.walkWrite a v rest) := by
  intro t ht
  obtain ⟨u, hu, rfl⟩ := walkWrite_next ht
  exact withOps_engineSound (hostWrite_engineSound hs hu) hrest

/-! ### The engine's moves -/

theorem readBeat_engineSound (hphase : s.dma.phase = .loaded) : EngineSoundOutcome s.readBeat := by
  intro t ht
  obtain rfl | ⟨w, u, hu, rfl⟩ := readBeat_next ht
  · exact recordDmaFault_engineSound hs _
  · have hsound := busRead_engineSound hs hu
    refine withDma_engineSound hsound ?_ rfl hsound.intF
    rw [(busRead_keepsChannel hu).dma, DmaState.isLoaded, DmaState.isLoaded, hphase]
    rfl

theorem advance_engineSound (hloaded : s.dma.isLoaded = true) : s.advance.EngineSound := by
  refine withDma_unloaded_engineSound hs rfl ?_
  have hinten : tiInten s.dma.ti = false := (hs.loaded hloaded).inten
  rw [hs.intF, hinten]
  rfl

theorem writeBeat_engineSound (hphase : s.dma.phase = .latched) : EngineSoundOutcome s.writeBeat := by
  intro t ht
  obtain rfl | ⟨u, hu, rfl⟩ := writeBeat_next ht
  · exact recordDmaFault_engineSound hs _
  · refine advance_engineSound (busWrite_engineSound hs hu) ?_
    rw [(busWrite_keepsChannel hu).dma, DmaState.isLoaded, hphase]
    rfl

/-- Neither kind looks at the reserved words, which the load drops. -/
theorem load_engineSound {d : Desc} (h : AdmittedDesc s.cfg d) : (s.load d).EngineSound :=
  ⟨fun _ => h, hs.intF, hs.ops⟩

theorem transferStep_engineSound {d : Desc} (hd : s.dma.phase = .needLoad → AdmittedDesc s.cfg d)
    (dreq : Bool) : EngineSoundOutcome (s.transferStep d dreq) := by
  intro t ht
  obtain rfl | ⟨-, ⟨hphase, rfl⟩ | ⟨hphase, -, hbeat⟩ | ⟨hphase, hbeat⟩⟩ := transferStep_next ht
  · exact hs
  · exact load_engineSound hs (hd hphase)
  · exact readBeat_engineSound hs hphase t hbeat
  · exact writeBeat_engineSound hs hphase t hbeat

/-! ### HOST's writes to the channel -/

theorem clearEvents_intF (v : Word) : (s.dma.clearEvents v).intF = false := by
  rw [DmaState.clearEvents, hs.intF]
  rfl

theorem abort_engineSound (v : Word) : (s.withDma { s.dma.abandon.clearEvents v with
    active := v.getLsbD 0, opts := v &&& dmaCsOpts }).EngineSound := by
  obtain heq | ⟨-, heq⟩ := s.dma.abandon_eq <;> rw [heq]
  · exact withDma_engineSound hs rfl rfl (clearEvents_intF hs v)
  · exact withDma_unloaded_engineSound hs rfl (clearEvents_intF hs v)

theorem go_engineSound (v : Word) : (s.withDma { s.dma.clearEvents v with
    active := true, opts := v &&& dmaCsOpts
    phase := if s.dma.phase = .idle then .needLoad else s.dma.phase }).EngineSound := by
  split
  · exact withDma_unloaded_engineSound hs rfl (clearEvents_intF hs v)
  · exact withDma_engineSound hs rfl rfl (clearEvents_intF hs v)

theorem pause_engineSound (v : Word) :
    (s.withDma { s.dma.clearEvents v with active := false }).EngineSound :=
  withDma_engineSound hs rfl rfl (clearEvents_intF hs v)

theorem setcb_engineSound (a : Word) :
    (s.withDma { s.dma with conblkAd := a, phase := .needLoad }).EngineSound :=
  withDma_unloaded_engineSound hs rfl hs.intF

theorem debugErr_engineSound (e : BitVec 3) :
    (s.withDma { s.dma with debugErr := e }).EngineSound :=
  withDma_engineSound hs rfl rfl hs.intF

/-! ### Instructions -/

/-- An instruction loads nothing but an admitted descriptor: the one it carries, in phase NeedLoad. -/
theorem exec_engineSound {i : Instr} (hi : s.dma.phase = .needLoad → AdmittedInstr s.cfg i) :
    EngineSoundOutcome (exec i s) := by
  cases i with
  | xferRx d => exact transferStep_engineSound hs (fun hphase => .inl (hi hphase)) _
  | xferTx d => exact transferStep_engineSound hs (fun hphase => .inr (hi hphase)) _
  | xferOther d => exact engineSound_refused _
  | dmaRdcs ch | dmaRddbg ch => exact onChannel_engineSound (regReadFree_engineSound hs _) ch
  | dmaReset ch v =>
    exact onChannel_engineSound (engineSound_refusedIf
      (engineSound_next (withDma_unloaded_engineSound hs rfl rfl)) _) ch
  | dmaAbort ch v =>
    exact onChannel_engineSound (engineSound_refusedIf (engineSound_next (abort_engineSound hs v)) _) ch
  | dmaGo ch v =>
    exact onChannel_engineSound (engineSound_refusedIf (engineSound_next (go_engineSound hs v)) _) ch
  | dmaPause ch v =>
    exact onChannel_engineSound (engineSound_refusedIf (engineSound_next (pause_engineSound hs v)) _) ch
  | dmaSetcb ch a =>
    exact onChannel_engineSound (engineSound_refusedIf (engineSound_next (setcb_engineSound hs a)) _) ch
  | dmaClrdbg ch v =>
    exact onChannel_engineSound (engineSound_next (debugErr_engineSound hs _)) ch
  | dmaRdpos ch | dmaRdti ch | dmaRdsrc ch | dmaRddst ch | dmaRdlen ch | dmaRdstride ch | dmaRdnext ch =>
    exact onChannel_engineSound (regRead_engineSound hs _) ch
  | pcmRdcs | pcmRdintstc | gpioRead bank => exact regReadFree_engineSound hs _
  | pcmRdmode | pcmRdrxc | pcmRdtxc | pcmRddreq | pcmRdinten => exact regRead_engineSound hs _
  | pcmRdfifo => exact programs_engineSound (portRead_engineSound fun _ _ => popRx_engineSound hs)
  | pcmWrfifo v => exact programs_engineSound (portWrite_engineSound fun _ => pushTx_engineSound hs)
  | pcmWrcs v => exact engineSound_refusedIf (engineSound_next (withPcm_engineSound hs _)) _
  | pcmWrmode v =>
    exact programs_engineSound (engineSound_refusedIf
      (engineSound_refusedIf (engineSound_next (withPcm_engineSound hs _)) _) _)
  | pcmWrrxc v | pcmWrtxc v =>
    exact programs_engineSound (engineSound_refusedUnless (engineSound_next (withPcm_engineSound hs _)) _)
  | pcmWrdreq v | pcmWrinten v =>
    exact programs_engineSound (engineSound_refusedIf (engineSound_next (withPcm_engineSound hs _)) _)
  | gpioSetfn reg field f =>
    exact engineSound_refusedUnless (engineSound_next (withGpio_engineSound hs _)) _
  | pcmWrintstc v | gpioSet bank v | gpioClr bank v | gpioPud v | gpioPudclk bank v | cvtI2f w
  | cvtI2fV4 w0 w1 w2 w3 | cvtF2i w | cvtF2iV4 w0 w1 w2 w3 =>
    exact engineSound_next (hs.of_eq rfl rfl rfl)

theorem runEncoded_engineSound (e : Encoded) : EngineSoundOutcome (s.runEncoded e) := by
  intro t ht
  obtain ⟨i, hdec, hi⟩ := runEncoded_next ht
  exact exec_engineSound hs (fun _ => decode_admitted hdec) t hi

end

/-! ### HOST's sequences -/

theorem stopCall_engineSound {s : State} (hs : s.EngineSound) {after : List HostOp}
    (hafter : after.all HostOp.isHost = true) : (s.stopCall after).EngineSound := by
  refine hs.of_ops rfl rfl ?_
  simp only [State.stopCall, State.withHost_host, List.all_append, hs.ops, hafter]
  rfl

section
variable {s : State} (hs : s.EngineSound) {rest : List HostOp} (hrest : rest.all HostOp.isHost = true)
include hs hrest

theorem clearRegionStep_engineSound (i : Nat) : EngineSoundOutcome (s.clearRegionStep i rest) :=
  engineSound_ite (walkWrite_engineSound hs (by exact hrest) _ _)
    (engineSound_next (withOps_engineSound hs hrest))

theorem chainBuildStep_engineSound (i : Nat) : EngineSoundOutcome (s.chainBuildStep i rest) :=
  engineSound_ite (walkWrite_engineSound hs (by exact hrest) _ _)
    (engineSound_next (withOps_engineSound hs hrest))

theorem pipeInStep_engineSound (k : Fin 2) (i : Nat) :
    EngineSoundOutcome (s.pipeInStep k i rest) := by
  refine engineSound_ite ?_ (engineSound_next (withOps_engineSound hs hrest))
  split
  next w t hread =>
    exact engineSound_next ((hostRead_engineSound hs hread).of_ops rfl rfl hrest)
  next => exact engineSound_refused _
  next => exact engineSound_refused _

theorem pipeOutStep_engineSound (k : Fin 2) (i : Nat) :
    EngineSoundOutcome (s.pipeOutStep k i rest) :=
  engineSound_ite (walkWrite_engineSound (s := s.drew 1) (hs.of_eq rfl rfl rfl) (by exact hrest) _ _)
    (engineSound_next (withOps_engineSound hs hrest))

theorem readPositionStep_engineSound : (s.readPositionStep rest).EngineSound := by
  unfold State.readPositionStep
  split
  · exact hs.of_ops rfl rfl hrest
  · exact hs.of_eq rfl rfl rfl

theorem busyPollStep_engineSound : (s.busyPollStep rest).EngineSound := by
  unfold State.busyPollStep
  split
  · split
    · exact hs.of_ops rfl rfl hrest
    · exact hs
  · exact hs.of_eq rfl rfl rfl

theorem clearErrorsStep_engineSound : EngineSoundOutcome (s.clearErrorsStep rest) :=
  engineSound_ite (runEncoded_engineSound (by exact hs.of_ops rfl rfl hrest) _)
    (engineSound_next (withOps_engineSound hs hrest))

theorem adoptStep_engineSound : (s.adoptStep rest).EngineSound := by
  unfold State.adoptStep
  split <;> exact hs.of_ops rfl rfl hrest

theorem notifyStep_engineSound : (s.notifyStep rest).EngineSound := by
  unfold State.notifyStep
  split <;> exact hs.of_ops rfl rfl hrest

theorem loopHeadStep_engineSound : (s.loopHeadStep rest).EngineSound := by
  unfold State.loopHeadStep
  split <;> exact hs.of_ops rfl rfl hrest

theorem snapshotStep_engineSound (i : Nat) : (s.snapshotStep i rest).EngineSound := by
  unfold State.snapshotStep
  split
  · dsimp only
    split <;> exact hs.of_ops rfl rfl hrest
  · exact hs.of_ops rfl rfl hrest

theorem gpioLevelStep_engineSound (pin : Nat) : EngineSoundOutcome (s.gpioLevelStep pin rest) :=
  engineSound_refusedUnless (issues_engineSound
    (regReadFree_engineSound (withOps_engineSound hs hrest) _)) _

theorem gpioPullStep_engineSound (pin : Nat) (mode : Pull) :
    EngineSoundOutcome (s.gpioPullStep pin mode rest) :=
  engineSound_refusedUnless (issues_engineSound (issues_engineSound
    (engineSound_next (withOps_engineSound (withGpio_engineSound hs _) hrest)))) _

theorem hostOpStep_engineSound (op : HostOp) : EngineSoundOutcome (s.hostOpStep op rest) := by
  cases op with
  | run i | csWrite clr set => exact runEncoded_engineSound (withOps_engineSound hs hrest) _
  | codecReset | chainBases | startDone | stopDone | sleep =>
    exact engineSound_next (hs.of_ops rfl rfl hrest)
  | codecBringUp | pipeCall => exact engineSound_next hs
  | clearRegion i => exact clearRegionStep_engineSound hs hrest i
  | chainBuild i => exact chainBuildStep_engineSound hs hrest i
  | loopHead => exact engineSound_next (loopHeadStep_engineSound hs hrest)
  | pipeIn k i => exact pipeInStep_engineSound hs hrest k i
  | pipeOut k i => exact pipeOutStep_engineSound hs hrest k i
  | readPosition =>
    exact issues_engineSound (engineSound_next (readPositionStep_engineSound hs hrest))
  | readStatus | position => exact issues_engineSound (engineSound_next (hs.of_ops rfl rfl hrest))
  | clearErrors => exact clearErrorsStep_engineSound hs hrest
  | adopt => exact engineSound_next (adoptStep_engineSound hs hrest)
  | notify => exact engineSound_next (notifyStep_engineSound hs hrest)
  | busyPoll => exact issues_engineSound (engineSound_next (busyPollStep_engineSound hs hrest))
  | snapshot i => exact engineSound_next (snapshotStep_engineSound hs hrest i)
  | gpioLevel pin => exact gpioLevelStep_engineSound hs hrest pin
  | gpioPull pin mode => exact gpioPullStep_engineSound hs hrest pin mode

end

/-! ### The agents' turns -/

section
variable {s : State} (hs : s.EngineSound)
include hs

theorem State.EngineSound.tail {op : HostOp} {rest : List HostOp} (hops : s.host.ops = op :: rest) :
    rest.all HostOp.isHost = true := by
  have hall := hs.ops
  rw [hops, List.all_cons, Bool.and_eq_true] at hall
  exact hall.2

theorem hostTurn_engineSound : EngineSoundOutcome s.hostTurn := by
  unfold State.hostTurn
  split
  next op rest hops =>
    exact engineSound_ite (engineSound_next hs) (hostOpStep_engineSound hs (hs.tail hops) op)
  next => exact engineSound_next hs

/-- Only in phase NeedLoad does the engine decode, and so load, the descriptor in memory. -/
theorem dmaTurn_engineSound : EngineSoundOutcome s.dmaTurn := by
  refine engineSound_ite ?_ (engineSound_next hs)
  split
  next => exact engineSound_next hs
  next =>
    exact engineSound_ite (engineSound_next (withDma_unloaded_engineSound hs rfl hs.intF))
      (engineSound_ite (runEncoded_engineSound hs _)
        (engineSound_next (recordDmaFault_engineSound hs _)))
  next hphase => exact exec_engineSound hs fun hload => nomatch hphase.symm.trans hload
  next hphase => exact exec_engineSound hs fun hload => nomatch hphase.symm.trans hload

theorem rxWord_engineSound (v : BitVec 24) : (s.rxWord v).EngineSound := by
  unfold State.rxWord
  split
  · exact hs
  · dsimp only
    split <;> exact hs.of_eq rfl rfl rfl

theorem txWord_engineSound : s.txWord.EngineSound := by
  unfold State.txWord
  split
  · exact hs
  · dsimp only
    split <;> exact hs.of_eq rfl rfl rfl

theorem pseudoTurn_engineSound (p : Pseudo) : EngineSoundOutcome (s.pseudoTurn p) := by
  refine engineSound_refusedUnless (engineSound_next (withOps_engineSound hs ?_)) _
  rw [List.all_append, pseudoOps_isHost, hs.ops]
  rfl

theorem initCall_engineSound (alloc : AllocOutcome) (i o : Nat) :
    (s.initCall alloc i o).EngineSound := by
  unfold State.initCall
  dsimp only
  split <;> exact hs.of_eq rfl rfl rfl

theorem callTurn_engineSound (c : Call) : EngineSoundOutcome (s.callTurn c) := by
  refine engineSound_ite (engineSound_next hs) ?_
  cases c with
  | init alloc i o =>
    exact engineSound_refusedUnless (engineSound_next (initCall_engineSound hs alloc i o)) _
  | start =>
    exact engineSound_refusedUnless
      (engineSound_next (withOps_engineSound hs (startOps_isHost s.cfg))) _
  | stop => exact engineSound_refusedUnless (engineSound_next (stopCall_engineSound hs rfl)) _
  | restart =>
    exact engineSound_refusedUnless
      (engineSound_next (stopCall_engineSound hs (startOps_isHost s.cfg))) _
  | getLastError => exact engineSound_refusedUnless (engineSound_next (returns_engineSound hs _)) _

theorem codecReadyTurn_engineSound (ok : Bool) : (s.codecReadyTurn ok).EngineSound := by
  unfold State.codecReadyTurn
  split
  next rest hops =>
    split
    · exact hs.of_ops rfl rfl (hs.tail hops)
    · exact hs.of_ops rfl rfl rfl
  next => exact hs

theorem callbackTurn_engineSound (out0 out1 : List Word) (exit : Bool) :
    (s.callbackTurn out0 out1 exit).EngineSound := by
  unfold State.callbackTurn
  split
  next rest hops => exact hs.of_ops rfl rfl (hs.tail hops)
  next => exact hs

theorem runTurn_engineSound (turn : Turn) : EngineSoundOutcome (s.runTurn turn) := by
  cases turn with
  | dma => exact dmaTurn_engineSound hs
  | rx v => exact engineSound_next (rxWord_engineSound hs v)
  | tx => exact engineSound_next (txWord_engineSound hs)
  | reg w => exact runEncoded_engineSound hs (.reg w)
  | cvt sel w0 w1 w2 w3 => exact runEncoded_engineSound hs (.cvt sel w0 w1 w2 w3)
  | memRead a => exact portRead_engineSound fun _ _ => hostRead_engineSound hs
  | memWrite a v => exact portWrite_engineSound fun _ => hostWrite_engineSound hs
  | pseudo p => exact pseudoTurn_engineSound hs p
  | host => exact hostTurn_engineSound hs
  | call c => exact callTurn_engineSound hs c
  | codecReady ok => exact engineSound_next (codecReadyTurn_engineSound hs ok)
  | codecClock on | requestExit => exact engineSound_next (hs.of_eq rfl rfl rfl)
  | callback out0 out1 exit => exact engineSound_next (callbackTurn_engineSound hs out0 out1 exit)

theorem takeTurn_engineSound : s.takeTurn.2.EngineSound := by
  unfold State.takeTurn
  split <;> exact hs.of_eq rfl rfl rfl

end

/-- Settles O59: the engine loads only what decodes, hence an admitted descriptor, whose `TI.INTEN` is 0,
and every list of operations HOST queues holds transactions and steps of its own. -/
theorem stepKeepsEngineInvariant : Obligations.StepKeepsEngineInvariant := by
  intro s t hinv h
  rw [State.engineInv_iff] at hinv ⊢
  exact runTurn_engineSound (takeTurn_engineSound hinv) _ t h

end Sys2Proof.Machine
end

section
/-! SUPPORT. The engine's turn, phase by phase (42 R160 to R169): what a running engine does with the
descriptor it runs, what each beat does at the FIFO's bus address, at a word of the block and anywhere else. -/

namespace Sys2Proof.Machine

/-! ### The bus (20 R66, R67) -/

section
variable {s : State} {a : Word}

theorem busRead_fifo {w : Word} {r : List Word} (ha : a = s.cfg.pcmFifoBus)
    (hfifo : s.pcm.rxfifo = w :: r) :
    s.busRead a = .ok (w, s.withPcm { s.pcm with rxfifo := r }) := by
  rw [State.busRead, if_pos ha, State.popRx, hfifo]

theorem busWrite_fifo (ha : a = s.cfg.pcmFifoBus) (hroom : s.pcm.txfifo.length < s.cfg.fifoDepth)
    (v : Word) : s.busWrite a v = .ok (s.withPcm { s.pcm with txfifo := s.pcm.txfifo ++ [v] }) := by
  rw [State.busWrite, if_pos ha, State.pushTx, if_pos hroom]

theorem busRead_word (hport : a ≠ s.cfg.pcmFifoBus) (hword : s.wordInBlock a = true) :
    s.busRead a = .ok (Memory.readWord s.mem a.toNat, s) := by
  rw [State.busRead, if_neg hport, if_pos hword]

theorem busWrite_word (hport : a ≠ s.cfg.pcmFifoBus) (hword : s.wordInBlock a = true) (v : Word) :
    s.busWrite a v = .ok (s.withMem (Memory.writeWord s.mem a.toNat v)) := by
  rw [State.busWrite, if_neg hport, if_pos hword]

theorem busRead_bad (hport : a ≠ s.cfg.pcmFifoBus) (hword : ¬s.wordInBlock a = true) :
    s.busRead a = .busError := by
  rw [State.busRead, if_neg hport, if_neg hword]

theorem busWrite_bad (hport : a ≠ s.cfg.pcmFifoBus) (hword : ¬s.wordInBlock a = true) (v : Word) :
    s.busWrite a v = .busError := by
  rw [State.busWrite, if_neg hport, if_neg hword]

/-- The two ways an address is no word of the block (42 R169). -/
theorem not_wordInBlock (h : a.toNat % 4 ≠ 0 ∨ s.cfg.inBlock a.toNat 4 = false) :
    ¬s.wordInBlock a = true := by
  rw [wordInBlock_iff]
  rintro ⟨halign, hblock⟩
  obtain h | h := h
  · exact h halign
  · exact absurd (hblock.symm.trans h) (by decide)

/-! ### The beats (42 R164, R165, R169) -/

theorem readBeat_of_ok {w : Word} {t : State} (h : s.busRead s.dma.sourceAd = .ok (w, t)) :
    s.readBeat = .next (t.withDma { t.dma with latch := w, phase := .latched }) := by
  rw [State.readBeat, h]

theorem writeBeat_of_ok {t : State} (h : s.busWrite s.dma.destAd s.dma.latch = .ok t) :
    s.writeBeat = .next t.advance := by
  rw [State.writeBeat, h]

theorem readBeat_of_busError (h : s.busRead s.dma.sourceAd = .busError) :
    s.readBeat = .next s.busFault := by
  rw [State.readBeat, h]

theorem writeBeat_of_busError (h : s.busWrite s.dma.destAd s.dma.latch = .busError) :
    s.writeBeat = .next s.busFault := by
  rw [State.writeBeat, h]

end

/-! ### One step of a paced descriptor -/

theorem not_engineRuns {s : State} (h : s.dma.active = false ∨ s.dmaFault ≠ none) :
    ¬s.engineRuns = true := by
  rw [engineRuns_iff]
  rintro ⟨hactive, hfault⟩
  obtain h | h := h
  · exact absurd (hactive.symm.trans h) (by decide)
  · exact h hfault

/-- Settles O20: the engine's turn and both transfers ask first whether the engine runs. -/
theorem engineStepsOnlyWhileActive : Obligations.EngineStepsOnlyWhileActive := fun _ h =>
  have hstopped := not_engineRuns h
  ⟨if_neg hstopped, fun _ => ⟨if_neg hstopped, if_neg hstopped⟩⟩

section
variable {s : State} (hactive : s.dma.active = true) (hfault : s.dmaFault = none)
include hactive hfault

theorem transferStep_of_needLoad (hphase : s.dma.phase = .needLoad) (d : Desc) (dreq : Bool) :
    s.transferStep d dreq = .next (s.load d) := by
  rw [State.transferStep, if_pos ((engineRuns_iff s).2 ⟨hactive, hfault⟩), hphase]

theorem transferStep_of_loaded (hphase : s.dma.phase = .loaded) (d : Desc) (dreq : Bool) :
    s.transferStep d dreq = if dreq then s.readBeat else .next s := by
  rw [State.transferStep, if_pos ((engineRuns_iff s).2 ⟨hactive, hfault⟩), hphase]

theorem transferStep_of_latched (hphase : s.dma.phase = .latched) (d : Desc) (dreq : Bool) :
    s.transferStep d dreq = s.writeBeat := by
  rw [State.transferStep, if_pos ((engineRuns_iff s).2 ⟨hactive, hfault⟩), hphase]

end

/-- Settles O13: in phase NeedLoad the step of either kind is the load. -/
theorem loadFillsWorkingRegisters : Obligations.LoadFillsWorkingRegisters :=
  fun _ d hactive hfault hphase =>
    have hload := transferStep_of_needLoad hactive hfault hphase d
    ⟨hload _, hload _⟩

/-- Settles O14: the read beat pops the word that a high `rx_dreq` shows to be there; the write beat writes
one word of memory and advances. -/
theorem xferRxBeats : Obligations.XferRxBeats := by
  intro s d hactive hfault hmem
  refine ⟨fun hphase hdreq => ?_, fun hphase hdreq hsrc => ?_, fun hphase hport halign hblock => ?_⟩
  · exact (transferStep_of_loaded hactive hfault hphase d _).trans (if_neg (by simp [hdreq]))
  · obtain ⟨w, r, hfifo⟩ := List.exists_cons_of_ne_nil (rxDreq_ne_nil hdreq)
    refine ⟨w, r, hfifo, ?_⟩
    calc exec (.xferRx d) s
        = s.readBeat := (transferStep_of_loaded hactive hfault hphase d _).trans (if_pos hdreq)
      _ = _ := readBeat_of_ok (busRead_fifo hsrc hfifo)
  · have hword : s.wordInBlock s.dma.destAd = true := (wordInBlock_iff ..).2 ⟨halign, hblock⟩
    refine ⟨Memory.writeWord s.mem s.dma.destAd.toNat s.dma.latch, ?_,
      Memory.readWord_writeWord_self _ _ hmem,
      fun a ha => Memory.readByte_writeWord_of_outside _ _ ha⟩
    calc exec (.xferRx d) s
        = s.writeBeat := transferStep_of_latched hactive hfault hphase d _
      _ = _ := writeBeat_of_ok (busWrite_word hport hword _)

/-- Settles O15: the read beat latches a word of memory; the write beat appends the latch and advances. -/
theorem xferTxBeats : Obligations.XferTxBeats := by
  intro s d hactive hfault
  refine ⟨fun hphase hdreq => ?_, fun hphase hdreq hport halign hblock => ?_,
    fun hphase hdst hroom => ?_⟩
  · exact (transferStep_of_loaded hactive hfault hphase d _).trans (if_neg (by simp [hdreq]))
  · have hword : s.wordInBlock s.dma.sourceAd = true := (wordInBlock_iff ..).2 ⟨halign, hblock⟩
    calc exec (.xferTx d) s
        = s.readBeat := (transferStep_of_loaded hactive hfault hphase d _).trans (if_pos hdreq)
      _ = _ := readBeat_of_ok (busRead_word hport hword)
  · calc exec (.xferTx d) s
        = s.writeBeat := transferStep_of_latched hactive hfault hphase d _
      _ = _ := writeBeat_of_ok (busWrite_fifo hdst hroom _)

/-- Settles O17: the beat's access answers with the bus error, whatever words the instruction carries, so
also for the loaded descriptor of the engine's own turn; after the fault there is no turn. -/
theorem beatBusFaultStopsEngine : Obligations.BeatBusFaultStopsEngine := by
  intro s d a hactive hfault hport hbad t
  have hword := not_wordInBlock hbad
  refine ⟨fun hphase hdst => ?_, fun hphase hdreq hsrc => ?_, recordDmaFault_error s _,
    dmaCsWord_error (recordDmaFault_error s _), dmaTurn_of_faulted rfl⟩
  · have hbeat (x : Desc) : exec (.xferRx x) s = .next t := by
      subst hdst
      exact (transferStep_of_latched hactive hfault hphase x _).trans
        (writeBeat_of_busError (busWrite_bad hport hword _))
    refine ⟨hbeat d, fun hti => ?_⟩
    rw [dmaTurn_of_loaded hactive hfault (.inr hphase), loadedInstr_rx hti, hbeat]
  · have hbeat (x : Desc) : exec (.xferTx x) s = .next t := by
      subst hsrc
      exact ((transferStep_of_loaded hactive hfault hphase x _).trans (if_pos hdreq)).trans
        (readBeat_of_busError (busRead_bad hport hword))
    refine ⟨hbeat d, fun hti => ?_⟩
    rw [dmaTurn_of_loaded hactive hfault (.inl hphase), loadedInstr_tx hti, hbeat]

/-- Settles O18: at a legal address the engine decodes the descriptor in memory, which is of neither kind. -/
theorem otherDescriptorRefused : Obligations.OtherDescriptorRefused := by
  intro s
  refine ⟨fun _ => rfl, fun hactive hfault hphase hzero halign hblock hslot hrx htx => ?_⟩
  have hok : s.descAddrOk = true := (descAddrOk_iff s).2 ⟨halign, hblock, hslot⟩
  have hother : decodeDesc s.cfg s.fetchDesc = .xferOther s.fetchDesc :=
    (Laws.decodeDesc_eq_xferOther ..).2 ⟨Bool.eq_false_iff.1 hrx, Bool.eq_false_iff.1 htx⟩
  rw [dmaTurn_of_needLoad hactive hfault hphase, if_neg hzero, if_pos hok]
  exact runEncoded_of_ok ((Laws.decode_desc_ok ..).2 hother)

end Sys2Proof.Machine
end

section
/-! SUPPORT. The transactions on the DMA channel (42 R170 to R178): what the four writes of `CS` do, and the
words `CS` and `DEBUG` read as, bit by bit (10 R15, R17). -/

namespace Sys2Proof.Machine

/-! ### Writes (42 R170 to R174) -/

/-- A write of the channel's `CS` without a reserved bit has the effect given (10 R15). -/
theorem csWrite_own {s : State} {v : Word} (hv : v &&& dmaCsReserved = 0#32) (r : Res) :
    s.onChannel s.cfg.dmaChannel (if v &&& dmaCsReserved ≠ 0#32 then .refused .reservedBit else r) = r :=
  (onChannel_own rfl _).trans (if_neg (not_not.2 hv))

theorem isLoaded_iff (d : DmaState) : d.isLoaded = true ↔ d.phase = .loaded ∨ d.phase = .latched := by
  simp [DmaState.isLoaded]

theorem DmaState.abandon_of_loaded {d : DmaState} (h : d.phase = .loaded ∨ d.phase = .latched) :
    d.abandon = { d with conblkAd := d.nextconbk, phase := .needLoad } :=
  if_pos ((isLoaded_iff d).2 h)

theorem DmaState.abandon_of_unloaded {d : DmaState} (h : d.phase = .idle ∨ d.phase = .needLoad) :
    d.abandon = d := by
  refine if_neg ?_
  rw [isLoaded_iff]
  obtain h | h := h <;> simp [h]

/-- Settles O22: on the machine's own channel the write asks only whether `ACTIVE` is 0. -/
theorem setcbSetsPosition : Obligations.SetcbSetsPosition := fun _ _ =>
  ⟨fun hactive => (onChannel_own rfl _).trans (if_neg (by simp [hactive])),
    fun hactive => (onChannel_own rfl _).trans (if_pos hactive)⟩

/-- Settles O23: without a reserved bit the write has its effect on the machine's own channel. -/
theorem goStartsChannel : Obligations.GoStartsChannel := fun _ _ hv => csWrite_own hv _

/-- Settles O24: likewise, the effect being on `ACTIVE`, `END` and `INT` only. -/
theorem pauseKeepsPlace : Obligations.PauseKeepsPlace := fun _ _ hv => csWrite_own hv _

/-- Settles O25: an abort abandons exactly a descriptor that is loaded. -/
theorem abortMovesToSuccessor : Obligations.AbortMovesToSuccessor := by
  intro s v hv
  have habort : exec (.dmaAbort s.cfg.dmaChannel v) s = .next (s.withDma
      { s.dma.abandon.clearEvents v with active := v.getLsbD 0, opts := v &&& dmaCsOpts }) :=
    csWrite_own hv _
  rw [habort]
  refine ⟨fun hphase => ?_, fun hphase => ?_⟩
  · rw [DmaState.abandon_of_loaded hphase]
    rfl
  · rw [DmaState.abandon_of_unloaded hphase]
    rfl

/-- Settles O26: the write has its effect, and an inactive channel has no turn. -/
theorem resetClearsChannel : Obligations.ResetClearsChannel := fun _ _ hv =>
  ⟨csWrite_own hv _, rfl, dmaTurn_of_inactive rfl⟩

/-! ### Reads of whole registers (42 R175, R178) -/

/-- The DMA table lists no write at the offsets of the working registers (30 R100). -/
theorem decode_workingRegister_write {o : BitVec 8} (c : Cfg) (ch : BitVec 4) (v : Word)
    (ho : o ∈ [0x08#8, 0x0C#8, 0x10#8, 0x14#8, 0x18#8, 0x1C#8]) :
    ∃ e, decode c (.reg (regPack ⟨2#2, 1#2, 0#1 ++ ch ++ o, v⟩)) = .error e := by
  have htable : decodeDma 1#2 (0#1 ++ ch ++ o) v = .error .unlisted := by
    rw [Laws.decodeDma_off]
    simp only [List.mem_cons, List.not_mem_nil, or_false] at ho
    obtain rfl | rfl | rfl | rfl | rfl | rfl := ho <;> rfl
  have hreg := Laws.decodeReg_regPack c 2#2 1#2 (0#1 ++ ch ++ o) v
  rw [htable, if_neg (by decide : ¬(2#2 = 0#2)), if_neg (by decide : ¬(2#2 = 1#2))] at hreg
  split_ifs at hreg <;> exact ⟨_, hreg⟩

/-- Settles O28: a read on the machine's own channel returns the register, a write tuple does not decode. -/
theorem channelRegisterReads : Obligations.ChannelRegisterReads := by
  intro s ret ch
  have hread (w : Word) : s.onChannel s.cfg.dmaChannel (s.regRead w) = ret w := onChannel_own rfl _
  refine ⟨hread _, hread _, hread _, hread _, hread _, hread _, hread _, fun o v ho => ?_⟩
  obtain ⟨e, he⟩ := decode_workingRegister_write s.cfg ch v ho
  exact ⟨e, runEncoded_of_error he⟩

/-! ### The word `CS` reads as (10 R15, 42 R176) -/

/-- A bit of `CS` that a read always defines. -/
theorem dmaCsWord_getLsbD (s : State) (free : Word) {i : Nat} (hi : dmaCsDefined.getLsbD i = true) :
    (s.dmaCsWord free).getLsbD i =
      (s.dma.active && decide (i = 0) || s.dma.endF && decide (i = 1) || s.dma.intF && decide (i = 2) ||
        s.dma.error && decide (i = 8) || s.dma.opts.getLsbD i) := by
  have hlt : i < 32 := BitVec.lt_of_getLsbD hi
  have hdreq : i ≠ 3 := by
    rintro rfl
    exact absurd hi (by decide)
  unfold State.dmaCsWord
  dsimp only
  split <;>
    simp only [mixFree_getLsbD, BitVec.getLsbD_or, flagBit_getLsbD, hi] <;>
    simp [hlt, hdreq]

/-- A stored option bit reads as it is stored. -/
theorem dmaCsWord_option (s : State) (free : Word) {i : Nat} (hi : dmaCsOpts.getLsbD i = true) :
    (s.dmaCsWord free).getLsbD i = s.dma.opts.getLsbD i := by
  have hdefined : ∀ j < 32, dmaCsOpts.getLsbD j = true →
      dmaCsDefined.getLsbD j = true ∧ j ≠ 0 ∧ j ≠ 1 ∧ j ≠ 2 ∧ j ≠ 8 := by decide
  obtain ⟨hi', h0, h1, h2, h8⟩ := hdefined i (BitVec.lt_of_getLsbD hi) hi
  simp [dmaCsWord_getLsbD s free hi', h0, h1, h2, h8]

/-- A field of option bits reads as it is stored. -/
theorem dmaCsWord_optionField (s : State) (free : Word) {lo n : Nat}
    (h : ∀ i < n, dmaCsOpts.getLsbD (lo + i) = true) :
    (s.dmaCsWord free).extractLsb' lo n = s.dma.opts.extractLsb' lo n := by
  apply BitVec.eq_of_getLsbD_eq
  intro i hi
  simp only [BitVec.getLsbD_extractLsb', dmaCsWord_option s free (h i hi)]

/-- Only option fields are stored, so a bit that is none of them reads as its own flag. -/
theorem opts_getLsbD_of_inv {d : DmaState} (h : d.inv = true) {i : Nat}
    (hi : dmaCsOpts.getLsbD i = false) : d.opts.getLsbD i = false :=
  getLsbD_eq_false_of_mask ((DmaState.inv_iff d).1 h).1 hi

theorem DmaState.error_eq (d : DmaState) : d.error = decide (d.debugErr ≠ 0#3) := by
  simp [DmaState.error, bne, beq_eq_decide]

theorem dmaCsWord_errorBit {s : State} (h : s.dma.inv = true) (free : Word) :
    (s.dmaCsWord free).getLsbD 8 = decide (s.dma.debugErr ≠ 0#3) := by
  rw [dmaCsWord_getLsbD s free (by decide), opts_getLsbD_of_inv h (by decide), ← DmaState.error_eq]
  simp

/-- Where the request signal is defined, bit 3 shows it. -/
theorem dmaCsWord_dreq {s : State} (h : s.dma.inv = true) {b : Bool} (hdreq : s.csDreq = some b)
    (free : Word) : (s.dmaCsWord free).getLsbD 3 = b := by
  have hopts := opts_getLsbD_of_inv h (i := 3) (by decide)
  have hdefined : (dmaCsDefined ||| 8#32).getLsbD 3 = true := by decide
  simp only [State.dmaCsWord, hdreq, mixFree_getLsbD, BitVec.getLsbD_or, flagBit_getLsbD, hopts, hdefined]
  simp

/-- The mask of 30 R94 covers `TI.PERMAP`. -/
theorem tiPermap_of_mask {ti v : Word} (h : ti &&& 0x001F0FF3#32 = v) : tiPermap ti = tiPermap v := by
  have hfield : (0x001F0FF3#32).extractLsb' 16 5 = BitVec.allOnes 5 := by decide
  rw [← h, tiPermap, tiPermap, BitVec.extractLsb'_and, hfield, BitVec.and_allOnes]

/-- It covers the two bits that pace a transfer. -/
theorem tiPaced_of_mask {ti v : Word} (h : ti &&& 0x001F0FF3#32 = v) : tiPaced ti = tiPaced v := by
  simp [← h, tiPaced]

/-- The request signal of a loaded descriptor, read off the bits of its `TI` that 30 R94 fixes (30 R96). -/
theorem csDreq_of_mask {s : State} {v : Word} (hloaded : s.dma.isLoaded = true)
    (hti : s.dma.ti &&& 0x001F0FF3#32 = v) : s.csDreq =
      if tiPaced v then
        if tiPermap v = 2#5 then some s.txDreq else if tiPermap v = 3#5 then some s.rxDreq else none
      else none := by
  rw [State.csDreq, hloaded, tiPaced_of_mask hti, tiPermap_of_mask hti, Bool.true_and]

/-- Settles O29: each flag reads as its own bit, each option field as it is stored. -/
theorem channelStatusRead : Obligations.ChannelStatusRead := by
  intro s hinv
  have hbit {i : Nat} (hi : dmaCsDefined.getLsbD i = true) (hopt : dmaCsOpts.getLsbD i = false) :=
    (dmaCsWord_getLsbD s s.free hi).trans (by rw [opts_getLsbD_of_inv hinv hopt, Bool.or_false])
  refine ⟨s.dmaCsWord s.free, onChannel_own rfl _, ?_, ?_, ?_, ?_,
    dmaCsWord_optionField s _ (by decide), dmaCsWord_optionField s _ (by decide),
    dmaCsWord_option s _ (by decide), dmaCsWord_option s _ (by decide), ?_, ?_, fun hphase => ?_⟩
  · simpa using hbit (i := 0) (by decide) (by decide)
  · simpa using hbit (i := 1) (by decide) (by decide)
  · simpa using hbit (i := 2) (by decide) (by decide)
  · exact dmaCsWord_errorBit hinv _
  · simpa using hbit (i := 30) (by decide) (by decide)
  · simpa using hbit (i := 31) (by decide) (by decide)
  · have hdreq {v : Word} := csDreq_of_mask (v := v) ((isLoaded_iff s.dma).2 hphase)
    exact ⟨fun htx => dmaCsWord_dreq hinv (hdreq ((Laws.isTx_iff ..).1 htx).1) _,
      fun hrx => dmaCsWord_dreq hinv (hdreq ((Laws.isRx_iff ..).1 hrx).1) _⟩

/-! ### The word `DEBUG` reads as (10 R17, 42 R177) -/

theorem dmaDebugWord_errorBits (s : State) (free : Word) :
    (s.dmaDebugWord free).extractLsb' 0 3 = s.dma.debugErr := by
  have hdefined : ∀ i < 3, (7#32).getLsbD i = true := by decide
  apply BitVec.eq_of_getLsbD_eq
  intro i hi
  rw [BitVec.getLsbD_extractLsb', Nat.zero_add, State.dmaDebugWord, mixFree_getLsbD, hdefined i hi]
  simp [hi, show i < 32 by omega]

/-- Settles O30: the read shows the three error bits; the write clears those written 1, and bit 8 of `CS`
is computed from the ones left. -/
theorem debugReadAndClear : Obligations.DebugReadAndClear := by
  intro s v
  refine ⟨⟨_, onChannel_own rfl _, dmaDebugWord_errorBits s s.free⟩,
    s.dma.debugErr &&& ~~~(v.extractLsb' 0 3), onChannel_own rfl _, fun i hi => ?_, fun hinv free => ?_⟩
  · simp [hi]
  · exact dmaCsWord_errorBit (s := s.withDma _) ((DmaState.Moves.clearDebug v).inv hinv) free

end Sys2Proof.Machine
end

section
/-! SUPPORT. The PCM peripheral (43 R191 to R215): the word `CS_A` reads as and what a write of it stores,
bit by bit (10 R20), what the FIFO port and the configuration registers take and refuse, the pacing signals, the
slots of the serial side as one row of numbers, and the two word events. -/

namespace Sys2Proof.Machine

/-! ### `CS_A` (10 R20, 43 R191, R192) -/

/-- A bit of `CS_A` that a read defines. -/
theorem csAWord_getLsbD (s : State) (free : Word) {i : Nat} (hi : csADefined.getLsbD i = true) :
    (s.csAWord free).getLsbD i =
      (s.pcm.csStored.getLsbD i || s.pcm.txErr && decide (i = 15) || s.pcm.rxErr && decide (i = 16) ||
        decide (s.pcm.txfifo.length < s.cfg.fifoDepth) && decide (i = 19) ||
        decide (1 ≤ s.pcm.rxfifo.length) && decide (i = 20) ||
        decide (s.pcm.txfifo.length = 0) && decide (i = 21) ||
        decide (s.pcm.rxfifo.length = s.cfg.fifoDepth) && decide (i = 22)) := by
  have hlt : i < 32 := BitVec.lt_of_getLsbD hi
  simp only [State.csAWord, State.csAKnown, mixFree_getLsbD, BitVec.getLsbD_or, flagBit_getLsbD, hi, hlt,
    decide_true, Bool.and_true, if_true]

/-- A stored bit that a read defines reads as it is stored. -/
theorem csAWord_stored (s : State) (free : Word) {i : Nat}
    (hi : (csADefined &&& csAStoredMask).getLsbD i = true) :
    (s.csAWord free).getLsbD i = s.pcm.csStored.getLsbD i := by
  have hflags : ∀ j < 32, (csADefined &&& csAStoredMask).getLsbD j = true → csADefined.getLsbD j = true ∧
      j ≠ 15 ∧ j ≠ 16 ∧ j ≠ 19 ∧ j ≠ 20 ∧ j ≠ 21 ∧ j ≠ 22 := by decide
  obtain ⟨hdef, h15, h16, h19, h20, h21, h22⟩ := hflags i (BitVec.lt_of_getLsbD hi) hi
  simp [csAWord_getLsbD s free hdef, h15, h16, h19, h20, h21, h22]

/-- Settles O31: a stored field reads as it is stored, each flag as its own bit, nothing stored at
its place. -/
theorem pcmStatusRead : Obligations.PcmStatusRead := by
  intro s hinv
  have hstored {i : Nat} (hi : csAStoredMask.getLsbD i = false) : s.pcm.csStored.getLsbD i = false :=
    getLsbD_eq_false_of_mask ((PcmState.inv_iff _ _).1 hinv).csStored hi
  have hflag {i : Nat} (hi : csADefined.getLsbD i = true) (hmask : csAStoredMask.getLsbD i = false) :=
    (csAWord_getLsbD s s.free hi).trans (by rw [hstored hmask, Bool.false_or])
  have hfields : ∀ i ∈ [0, 1, 2, 5, 6, 7, 8, 9, 23, 25],
      (csADefined &&& csAStoredMask).getLsbD i = true := by decide
  refine ⟨s.csAWord s.free, rfl, fun i hi => csAWord_stored s _ (hfields i hi),
    ?_, ?_, ?_, ?_, ?_, ?_, ?_, ?_⟩
  · simpa using hflag (i := 3) (by decide) (by decide)
  · simpa using hflag (i := 4) (by decide) (by decide)
  · simpa using hflag (i := 15) (by decide) (by decide)
  · simpa using hflag (i := 16) (by decide) (by decide)
  · simpa using hflag (i := 19) (by decide) (by decide)
  · simpa using hflag (i := 20) (by decide) (by decide)
  · simpa using hflag (i := 21) (by decide) (by decide)
  · simpa using hflag (i := 22) (by decide) (by decide)

/-- A write stores the bits of `CS_A`'s read-write fields. -/
theorem writeCs_stored (p : PcmState) (v : Word) {i : Nat} (hi : csAStoredMask.getLsbD i = true) :
    (p.writeCs v).csStored.getLsbD i = v.getLsbD i :=
  BitVec.getLsbD_and.trans (by rw [hi, Bool.and_true])

/-- It stores no other bit. -/
theorem writeCs_notStored (p : PcmState) (v : Word) {i : Nat} (hi : csAStoredMask.getLsbD i = false) :
    (p.writeCs v).csStored.getLsbD i = false :=
  BitVec.getLsbD_and.trans (by rw [hi, Bool.and_false])

theorem PcmState.rxRuns_iff (p : PcmState) :
    p.rxRuns = true ↔ p.csStored.getLsbD 0 = true ∧ p.csStored.getLsbD 1 = true := Bool.and_eq_true_iff

theorem PcmState.txRuns_iff (p : PcmState) :
    p.txRuns = true ↔ p.csStored.getLsbD 0 = true ∧ p.csStored.getLsbD 2 = true := Bool.and_eq_true_iff

/-- A direction that is off after a write, or was on before it, does not start. -/
theorem not_starts {after before : Bool} (h : ¬after = true ∨ before = true) :
    ¬(after && !before) = true := by
  simpa [imp_iff_not_or] using h

/-- A receive direction that does not start keeps its place (43 R212; log 16). -/
theorem writeCs_rxPos {p : PcmState} {v : Word}
    (h : ¬(v.getLsbD 0 = true ∧ v.getLsbD 1 = true) ∨ p.rxRuns = true) :
    (p.writeCs v).rxPos = p.rxPos := by
  refine if_neg (not_starts (after := (p.writeCs v).rxRuns) ?_)
  rwa [PcmState.rxRuns_iff, writeCs_stored p v (by decide), writeCs_stored p v (by decide)]

/-- So does a transmit direction. -/
theorem writeCs_txPos {p : PcmState} {v : Word}
    (h : ¬(v.getLsbD 0 = true ∧ v.getLsbD 2 = true) ∨ p.txRuns = true) :
    (p.writeCs v).txPos = p.txPos := by
  refine if_neg (not_starts (after := (p.writeCs v).txRuns) ?_)
  rwa [PcmState.txRuns_iff, writeCs_stored p v (by decide), writeCs_stored p v (by decide)]

/-- Settles O32: a word without a reserved bit is written, its read-write fields stored and no other bit. -/
theorem pcmStatusWrite : Obligations.PcmStatusWrite := by
  intro s v
  have hfields : ∀ i ∈ [0, 1, 2, 5, 6, 7, 8, 9, 23, 24, 25], csAStoredMask.getLsbD i = true := by decide
  have hothers : ∀ i ∈ [3, 4, 10, 11, 12, 13, 14, 15, 16, 17, 18, 19, 20, 21, 22, 26, 27, 28, 29, 30, 31],
      csAStoredMask.getLsbD i = false := by decide
  exact ⟨fun hv => if_pos hv, fun hv => ⟨(s.pcm.writeCs v).csStored, (s.pcm.writeCs v).rxPos,
    (s.pcm.writeCs v).txPos, if_neg (not_not.2 hv), fun i hi => writeCs_stored _ v (hfields i hi),
    fun i hi => writeCs_notStored _ v (hothers i hi), writeCs_rxPos, writeCs_txPos⟩⟩

/-! ### Register programming and the FIFO port (43 R194, R198, R199) -/

section
variable {s : State}

/-- With `EN = 1` the transaction has the effect given. -/
theorem programs_of_enabled (hen : s.pcm.csStored.getLsbD 0 = true) (r : Res) : s.programs r = r :=
  if_pos hen

theorem programs_of_disabled (hen : s.pcm.csStored.getLsbD 0 = false) (r : Res) :
    s.programs r = .refused .pcmDisabled :=
  if_neg (Bool.eq_false_iff.1 hen)

end

/-- Settles O33: with `EN = 1` each access is the queue's own operation, by whether a word or room is
there. -/
theorem fifoPortPopsAndPushes : Obligations.FifoPortPopsAndPushes := by
  intro s v
  refine ⟨fun hen => ⟨programs_of_disabled hen _, programs_of_disabled hen _⟩, fun hen => ?_⟩
  have hread : exec .pcmRdfifo s = portRead s.popRx := programs_of_enabled hen _
  have hwrite : exec (.pcmWrfifo v) s = portWrite (s.pushTx v) := programs_of_enabled hen _
  rw [hread, hwrite, State.popRx, State.pushTx]
  refine ⟨fun w r hqueue => ?_, fun hqueue => ?_, fun hroom => ?_, fun hfull => ?_⟩
  · rw [hqueue]
    rfl
  · rw [hqueue]
    rfl
  · rw [if_pos hroom]
    rfl
  · rw [if_neg (not_lt.2 hfull)]
    rfl

/-! ### The configuration registers (43 R200 to R204) -/

/-- `MODE_A` admits a word with no packed, PDM or reserved bit. -/
theorem mode_mask_eq_zero_iff (v : Word) : v &&& 0xE7000000#32 = 0#32 ↔
    v &&& modePacked = 0#32 ∧ v &&& modeReserved = 0#32 := by
  have hmask : (0xE7000000#32 : Word) = modePacked ||| modeReserved := by decide
  rw [hmask, BitVec.and_or_distrib_left, BitVec.or_eq_zero_iff]

theorem widthsOk_iff (v : Word) : widthsOk v = true ↔
    (v.getLsbD 30 = true → v.getLsbD 31 = true ∧ v.extractLsb' 16 4 = 0#4) ∧
    (v.getLsbD 14 = true → v.getLsbD 15 = true ∧ v.extractLsb' 0 4 = 0#4) := by
  simp only [widthsOk, Bool.and_eq_true, Bool.or_eq_true, Bool.not_eq_true', beq_iff_eq,
    ← Bool.not_eq_true, ← imp_iff_not_or]

/-- An enabled channel of another width. -/
theorem not_widthsOk {v : Word}
    (h : (v.getLsbD 30 = true ∧ (v.getLsbD 31 = false ∨ v.extractLsb' 16 4 ≠ 0#4)) ∨
      (v.getLsbD 14 = true ∧ (v.getLsbD 15 = false ∨ v.extractLsb' 0 4 ≠ 0#4))) :
    ¬widthsOk v = true := by
  simpa only [widthsOk_iff, not_and_or, Classical.not_imp, Bool.not_eq_true] using h

/-- Settles O34: with `EN = 1` a write asks only for the bits or widths its register admits. -/
theorem pcmConfigurationStored : Obligations.PcmConfigurationStored := by
  intro s v ret ok24
  refine ⟨rfl, rfl, rfl, rfl, rfl, fun hen => ?_⟩
  have hprog := programs_of_enabled hen
  refine ⟨fun hv => ?_, fun hv => ?_, fun hv => ?_, fun hv => ?_⟩
  · obtain ⟨hpacked, hreserved⟩ := (mode_mask_eq_zero_iff v).1 hv
    exact ((hprog _).trans (if_neg (not_not.2 hpacked))).trans (if_neg (not_not.2 hreserved))
  · have hok := (widthsOk_iff v).2 hv
    exact ⟨(hprog _).trans (if_pos hok), (hprog _).trans (if_pos hok)⟩
  · exact (hprog _).trans (if_neg (not_not.2 hv))
  · exact (hprog _).trans (if_neg (not_not.2 hv))

/-- Settles O35: a word that is not admitted is refused at the check of its register, every write with
`EN = 0` before it. -/
theorem pcmConfigurationRefused : Obligations.PcmConfigurationRefused := by
  intro s v bad24
  refine ⟨fun hen => ?_, fun hen i hi => ?_⟩
  · have hprog := programs_of_enabled hen
    refine ⟨fun hv => ?_, fun hv => ?_, fun hv => ?_, fun hv => ?_⟩
    · by_cases hpacked : v &&& modePacked = 0#32
      · have hreserved : v &&& modeReserved ≠ 0#32 := fun h =>
          hv ((mode_mask_eq_zero_iff v).2 ⟨hpacked, h⟩)
        exact ⟨_, ((hprog _).trans (if_neg (not_not.2 hpacked))).trans (if_pos hreserved)⟩
      · exact ⟨_, (hprog _).trans (if_pos hpacked)⟩
    · have hbad := not_widthsOk hv
      exact ⟨⟨_, (hprog _).trans (if_neg hbad)⟩, _, (hprog _).trans (if_neg hbad)⟩
    · exact ⟨_, (hprog _).trans (if_pos hv)⟩
    · exact ⟨_, (hprog _).trans (if_pos hv)⟩
  · simp only [List.mem_cons, List.not_mem_nil, or_false] at hi
    obtain rfl | rfl | rfl | rfl | rfl := hi <;> exact programs_of_disabled hen _

/-- Settles O36: the read returns the next free word. -/
theorem interruptStatusIsInert : Obligations.InterruptStatusIsInert := fun s _ =>
  ⟨⟨s.free, rfl⟩, rfl⟩

/-! ### The pacing signals (43 R209, R210) -/

theorem rxDreq_iff (s : State) : s.rxDreq = true ↔
    s.pcm.csStored.getLsbD 0 = true ∧ s.pcm.csStored.getLsbD 9 = true ∧
      max 1 (s.pcm.dreqA.extractLsb' 0 7).toNat ≤ s.pcm.rxfifo.length := by
  rw [State.rxDreq, Bool.and_eq_true, Bool.and_eq_true, decide_eq_true_eq, and_assoc]
  rfl

theorem txDreq_iff (s : State) : s.txDreq = true ↔
    s.pcm.csStored.getLsbD 0 = true ∧ s.pcm.csStored.getLsbD 9 = true ∧
      s.pcm.txfifo.length < min s.cfg.fifoDepth (s.pcm.dreqA.extractLsb' 8 7).toNat := by
  rw [State.txDreq, Bool.and_eq_true, Bool.and_eq_true, decide_eq_true_eq, and_assoc]
  rfl

/-- Settles O19: the signals are their levels; no number of words is below a request level of 0. -/
theorem pacingSignalLevels : Obligations.PacingSignalLevels := by
  intro s
  refine ⟨rxDreq_iff s, txDreq_iff s, rxDreq_ne_nil, txDreq_room, fun hlevel => ?_⟩
  rw [← Bool.not_eq_true, txDreq_iff, hlevel]
  simp

/-! ### The slots of the serial side (43 R212) -/

/-- The number of a slot in the order of 43 R212 (a), (b). -/
def Slot.index (a : Slot) : Nat := 2 * a.frame + a.chan.val

theorem Slot.index_injective : Function.Injective Slot.index := by
  rintro ⟨f, c⟩ ⟨g, d⟩ h
  simp only [Slot.index] at h
  rw [Slot.mk.injEq, Fin.ext_iff]
  omega

theorem Slot.before_iff (a b : Slot) : a.before b = true ↔ a.index < b.index := by
  simp only [Slot.before, Slot.index, Bool.or_eq_true, Bool.and_eq_true, decide_eq_true_eq]
  omega

theorem Slot.not_before_iff (a b : Slot) : a.before b = false ↔ b.index ≤ a.index := by
  rw [← Bool.not_eq_true, Slot.before_iff, not_lt]

theorem Slot.index_succ (a : Slot) : a.succ.index = a.index + 1 := by
  obtain ⟨f, c⟩ := a
  fin_cases c <;> simp [Slot.succ, Slot.index]
  omega

/-- A slot and the one after it are of the two channels, so one of them has a given slot's channel. -/
theorem Slot.chan_eq_or_succ (a b : Slot) : b.chan = a.chan ∨ b.chan = a.succ.chan := by
  obtain ⟨f, c⟩ := a
  obtain ⟨g, d⟩ := b
  fin_cases c <;> fin_cases d <;> simp [Slot.succ]

/-- The next slot is of an enabled channel, not passed, and no later than another such slot. -/
theorem nextSlot_first {chans : Word} {pos sl : Slot} (h : nextSlot chans pos = some sl) :
    chanEn chans sl.chan = true ∧ pos.index ≤ sl.index ∧
      ∀ x : Slot, pos.index ≤ x.index → chanEn chans x.chan = true → sl.index ≤ x.index := by
  have hsucc := pos.index_succ
  unfold nextSlot at h
  split_ifs at h with hpos hnext <;> cases h
  · exact ⟨hpos, le_rfl, fun x hge _ => hge⟩
  · refine ⟨hnext, by omega, fun x hge hen => ?_⟩
    have hne : x ≠ pos := by
      rintro rfl
      exact hpos hen
    have := Slot.index_injective.ne hne
    omega

/-- With a channel enabled there is a next slot. -/
theorem exists_nextSlot {chans : Word} {x : Slot} (hen : chanEn chans x.chan = true) (pos : Slot) :
    ∃ sl, nextSlot chans pos = some sl := by
  unfold nextSlot
  split_ifs with hpos hnext
  · exact ⟨_, rfl⟩
  · exact ⟨_, rfl⟩
  · obtain h | h := Slot.chan_eq_or_succ pos x <;> rw [h] at hen
    · exact absurd hen hpos
    · exact absurd hen hnext

/-- The next slot is exactly the earliest one of an enabled channel that is not passed. -/
theorem nextSlot_eq_some_iff (chans : Word) (pos sl : Slot) : nextSlot chans pos = some sl ↔
    chanEn chans sl.chan = true ∧ sl.before pos = false ∧
      ∀ x : Slot, x.before pos = false → x.before sl = true → chanEn chans x.chan = false := by
  simp only [Slot.before_iff, Slot.not_before_iff]
  constructor
  · intro h
    obtain ⟨hen, hge, hfirst⟩ := nextSlot_first h
    exact ⟨hen, hge, fun x hx hlt => Bool.eq_false_iff.2 fun hxen =>
      absurd (hfirst x hx hxen) (not_le.2 hlt)⟩
  · rintro ⟨hen, hge, hnone⟩
    obtain ⟨x, hx⟩ := exists_nextSlot hen pos
    obtain ⟨hxen, hxge, hfirst⟩ := nextSlot_first hx
    have hle : sl.index ≤ x.index :=
      not_lt.1 fun hlt => absurd hxen (Bool.eq_false_iff.1 (hnone x hxge hlt))
    rw [hx, Slot.index_injective (le_antisymm (hfirst sl hge hen) hle)]

/-- A receive event: the clock and the direction run, the slot is next, and constraint (c) of 43 R212. -/
theorem rxEvent_eq_some_iff (s : State) (sl : Slot) : s.rxEvent = some sl ↔
    s.env.codecClk = true ∧ s.pcm.rxRuns = true ∧ nextSlot s.pcm.rxcA s.pcm.rxPos = some sl ∧
      (s.pcm.txRuns = true → chanEn s.pcm.txcA sl.chan = true → sl.before s.pcm.txPos = true) := by
  unfold State.rxEvent
  cases nextSlot s.pcm.rxcA s.pcm.rxPos with
  | none => simp
  | some x =>
    obtain rfl | hne := eq_or_ne x sl
    · simp [and_assoc]
    · simp [hne]

/-- A transmit event: the clock and the direction run, the slot is next, and constraint (d) of 43 R212. -/
theorem txEvent_eq_some_iff (s : State) (sl : Slot) : s.txEvent = some sl ↔
    s.env.codecClk = true ∧ s.pcm.txRuns = true ∧ nextSlot s.pcm.txcA s.pcm.txPos = some sl ∧
      (s.pcm.rxRuns = true → chanEn s.pcm.rxcA sl.chan = true → 2 ≤ sl.frame →
        Slot.before ⟨sl.frame - 2, sl.chan⟩ s.pcm.rxPos = true) := by
  unfold State.txEvent
  cases nextSlot s.pcm.txcA s.pcm.txPos with
  | none => simp
  | some x =>
    obtain rfl | hne := eq_or_ne x sl
    · simp [and_assoc]
    · simp [hne]

/-- Settles O39: the slot that is next is the earliest one not passed, and only the other direction's event
can hold its own back. -/
theorem wordEventOrder : Obligations.WordEventOrder := fun s sl => by
  simp only [rxEvent_eq_some_iff, txEvent_eq_some_iff, nextSlot_eq_some_iff, PcmState.rxRuns_iff,
    PcmState.txRuns_iff, and_assoc, and_self]

/-! ### The word events (43 R213 to R215) -/

/-- Settles O38: the queue's oldest word is sent, a free value when there is none. -/
theorem transmitWordEvent : Obligations.TransmitWordEvent := by
  intro s sl hevent
  have hturn : s.runTurn .tx = .next s.txWord := rfl
  rw [hturn, State.txWord, hevent]
  refine ⟨fun w r hqueue => ?_, fun hqueue => ⟨s.free.extractLsb' 0 24, ?_⟩⟩ <;>
  · rw [hqueue]
    rfl

/-- The word queued for a sample has the sample in bits 23:0. -/
theorem rxSample_low (sex : Bool) (v : BitVec 24) :
    (if sex then sext24 v else zext24 v).extractLsb' 0 24 = v := by
  apply BitVec.eq_of_getLsbD_eq
  intro i hi
  cases sex <;> simp [sext24, zext24, BitVec.getElem_signExtend, hi, show i < 32 by omega]

/-- Above them, copies of bit 23 or zeros (43 R213). -/
theorem rxSample_high (sex : Bool) (v : BitVec 24) {i : Nat} (hlo : 24 ≤ i) (hhi : i < 32) :
    (if sex then sext24 v else zext24 v).getLsbD i = (sex && v.getLsbD 23) := by
  cases sex
  · simp [zext24, hlo]
  · simp [sext24, BitVec.getElem_signExtend, hhi, hlo, BitVec.msb_eq_getLsbD_last]

/-- Settles O37: the sample, extended as `RXSEX` asks, is queued when there is room. -/
theorem receiveWordEvent : Obligations.ReceiveWordEvent := by
  intro s v sl hevent
  have hturn : s.runTurn (.rx v) = .next (s.rxWord v) := rfl
  rw [hturn, State.rxWord, hevent]
  refine ⟨fun hroom => ⟨_, rxSample_low s.pcm.rxsex v, fun i => rxSample_high _ v, ?_⟩, fun hfull => ?_⟩
  · exact congrArg _ (if_pos hroom)
  · exact congrArg _ (if_neg (not_lt.2 hfull))

end Sys2Proof.Machine
end

section
/-! SUPPORT. HOST's polling loop (44 R240 to R248): the steps that read the channel's position, those that
handle the peripheral's error flags, and the sequences the application's calls and the loop head begin. -/

namespace Sys2Proof.Machine

/-! ### The position (44 R242, R247, 41 R148) -/

/-- After a loop fault HOST's sequence has no next step (60 R307). -/
theorem hostTurn_of_loopFault {s : State} {f : Fault} (h : s.host.loopFault = some f) :
    s.hostTurn = .next s := by
  unfold State.hostTurn
  split
  · exact if_pos (by rw [h]; rfl)
  · rfl

section
variable {s : State}

theorem issues_dmaRdpos_inside (h : 256 * s.cfg.dmaChannel.toNat + 4 < s.cfg.winDma) (r : Res) :
    s.issues (.dmaRdpos s.cfg.dmaChannel) r = r :=
  issues_of_ok ((decode_dmaRdpos ..).trans (if_neg (not_le.2 h))) r

theorem issues_dmaRdpos_outside (h : ¬256 * s.cfg.dmaChannel.toNat + 4 < s.cfg.winDma) (r : Res) :
    s.issues (.dmaRdpos s.cfg.dmaChannel) r = .refused (.badEncoding .outOfWindow) :=
  issues_of_error ((decode_dmaRdpos ..).trans (if_pos (not_lt.1 h))) r

theorem readPositionStep_of_some {p : Position} (h : s.hostPosition = some p) (rest : List HostOp) :
    s.readPositionStep rest = (s.withHost { s.host with
      hwBuf := p.buffer, hwFrame := p.frame, hwChan := p.chan }).withOps rest := by
  rw [State.readPositionStep, h]

theorem readPositionStep_of_none (h : s.hostPosition = none) (rest : List HostOp) :
    s.readPositionStep rest = s.recordLoopFault := by
  rw [State.readPositionStep, h]

theorem busyPollStep_of_changed {p : Position} (h : s.hostPosition = some p)
    (hbuf : p.buffer ≠ s.host.curBuf) (rest : List HostOp) :
    s.busyPollStep rest = (s.withHost { s.host with curBuf := p.buffer }).withOps rest := by
  rw [State.busyPollStep, h]
  exact if_pos hbuf

theorem busyPollStep_of_same {p : Position} (h : s.hostPosition = some p)
    (hbuf : p.buffer = s.host.curBuf) (rest : List HostOp) : s.busyPollStep rest = s := by
  rw [State.busyPollStep, h]
  exact if_neg (not_not.2 hbuf)

theorem busyPollStep_of_none (h : s.hostPosition = none) (rest : List HostOp) :
    s.busyPollStep rest = s.recordLoopFault := by
  rw [State.busyPollStep, h]

end

/-- Settles O49: inside the window the turn is its step, by the position decoded; the fault it records bars
the next. -/
theorem loopFollowsPosition : Obligations.LoopFollowsPosition := by
  intro s rest hfault pos bad inWin
  have hread (hops : s.host.ops = .readPosition :: rest) :
      s.hostTurn = s.issues (.dmaRdpos s.cfg.dmaChannel) (.next (s.readPositionStep rest)) :=
    hostTurn_of_ops hfault hops
  have hpoll (hops : s.host.ops = .busyPoll :: rest) :
      s.hostTurn = s.issues (.dmaRdpos s.cfg.dmaChannel) (.next (s.busyPollStep rest)) :=
    hostTurn_of_ops hfault hops
  have hbad : bad.hostTurn = .next bad := hostTurn_of_loopFault rfl
  refine ⟨fun hops hin => ?_, fun hops hin => ?_, fun hops hout => ⟨.outOfWindow, ?_⟩⟩
  · rw [hread hops, issues_dmaRdpos_inside hin]
    exact ⟨fun p hp => congrArg _ (readPositionStep_of_some hp rest),
      fun hp => ⟨congrArg _ (readPositionStep_of_none hp rest), hbad⟩⟩
  · rw [hpoll hops, issues_dmaRdpos_inside hin]
    exact ⟨fun p hp hbuf => congrArg _ (busyPollStep_of_changed hp hbuf rest),
      fun p hp hbuf => congrArg _ (busyPollStep_of_same hp hbuf rest),
      fun hp => ⟨congrArg _ (busyPollStep_of_none hp rest), hbad⟩⟩
  · obtain hops | hops := hops
    · exact (hread hops).trans (issues_dmaRdpos_outside hout _)
    · exact (hpoll hops).trans (issues_dmaRdpos_outside hout _)

/-! ### The error flags (44 R243 to R245) -/

theorem hostTurns_of_refused {s : State} {r : Refusal} (h : s.hostTurn = .refused r) (n : Nat) :
    s.hostTurns (n + 1) = .refused r := by
  rw [State.hostTurns, h]

/-- The two error bits of `CS_A`. -/
def errFlagBits (tx rx : Bool) : Word := flagBit tx 15 ||| flagBit rx 16

/-- The error flags of the word `CS_A` reads as, at their bits. -/
theorem csAWord_errFlagBits {s : State} (h : s.pcm.Sound s.cfg) (free : Word) :
    s.csAWord free &&& csErrBits = errFlagBits s.pcm.txErr s.pcm.rxErr := by
  have hbits : ∀ i < 32, csErrBits.getLsbD i = decide (i = 15 ∨ i = 16) ∧
      (csErrBits.getLsbD i = true →
        csADefined.getLsbD i = true ∧ csAStoredMask.getLsbD i = false) := by decide
  apply BitVec.eq_of_getLsbD_eq
  intro i hi
  obtain ⟨herr, hread⟩ := hbits i hi
  rw [BitVec.getLsbD_and, errFlagBits, BitVec.getLsbD_or, flagBit_getLsbD, flagBit_getLsbD]
  by_cases h' : i = 15 ∨ i = 16
  · obtain ⟨hdef, hmask⟩ := hread (by simpa [herr] using h')
    rw [csAWord_getLsbD s free hdef, getLsbD_eq_false_of_mask h.csStored hmask]
    obtain rfl | rfl := h' <;> simp [herr]
  · rw [herr, decide_eq_false h', Bool.and_false]
    rw [not_or] at h'
    simp [h']

/-- A write of the fields that are stored, with no queue cleared, touches the error flags alone. -/
theorem writeCs_of_stored {p : PcmState} {v : Word} (hstored : v &&& csAStoredMask = p.csStored)
    (htx : v.getLsbD 3 = false) (hrx : v.getLsbD 4 = false) : p.writeCs v =
      { p with txErr := p.txErr && !v.getLsbD 15, rxErr := p.rxErr && !v.getLsbD 16 } := by
  simp only [PcmState.writeCs, PcmState.rxRuns, PcmState.txRuns, PcmState.en, PcmState.rxon,
    PcmState.txon, hstored, htx, hrx, Bool.and_not_self, Bool.false_eq_true, if_false]

/-- A word whose bits outside a mask are 0 is its own masking. -/
theorem and_mask_eq_self {w m : Word} (h : w &&& ~~~m = 0#32) : w &&& m = w := by
  apply BitVec.eq_of_getLsbD_eq
  intro i hi
  rw [BitVec.getLsbD_and]
  cases hm : m.getLsbD i
  · rw [getLsbD_eq_false_of_mask h hm, Bool.false_and]
  · rw [Bool.and_true]

/-- The word that clears the error flags, the stored fields kept. -/
theorem csStored_or_errFlagBits {c : Cfg} {p : PcmState} (h : p.Sound c) (tx rx : Bool) :
    (p.csStored ||| errFlagBits tx rx) &&& csAReserved = 0#32 ∧
    (p.csStored ||| errFlagBits tx rx) &&& csAStoredMask = p.csStored ∧
    ∀ i, csAStoredMask.getLsbD i = false →
      (p.csStored ||| errFlagBits tx rx).getLsbD i = (errFlagBits tx rx).getLsbD i := by
  have herr : ∀ tx rx, errFlagBits tx rx &&& csAReserved = 0#32 ∧
      errFlagBits tx rx &&& csAStoredMask = 0#32 := by decide
  obtain ⟨hres, hmask⟩ := herr tx rx
  refine ⟨?_, ?_, fun i hi => ?_⟩
  · have hsplit : csAReserved = ~~~csAStoredMask &&& csAReserved := by decide
    rw [BitVec.and_or_distrib_right, hres, hsplit, ← BitVec.and_assoc, h.csStored]
    decide
  · rw [BitVec.and_or_distrib_right, hmask, and_mask_eq_self h.csStored, BitVec.or_zero]
  · rw [BitVec.getLsbD_or, getLsbD_eq_false_of_mask h.csStored hi, Bool.false_or]

/-- Writing it clears the error flags that are set and changes nothing else of the peripheral. -/
theorem writeCs_errFlagBits {c : Cfg} {p : PcmState} (h : p.Sound c) :
    p.writeCs (p.csStored ||| errFlagBits p.txErr p.rxErr) = { p with txErr := false, rxErr := false } := by
  have hbits : ∀ tx rx, (errFlagBits tx rx).getLsbD 3 = false ∧ (errFlagBits tx rx).getLsbD 4 = false ∧
      (errFlagBits tx rx).getLsbD 15 = tx ∧ (errFlagBits tx rx).getLsbD 16 = rx := by decide
  obtain ⟨h3, h4, h15, h16⟩ := hbits p.txErr p.rxErr
  obtain ⟨-, hstored, hother⟩ := csStored_or_errFlagBits h p.txErr p.rxErr
  rw [writeCs_of_stored hstored ((hother 3 (by decide)).trans h3) ((hother 4 (by decide)).trans h4),
    hother 15 (by decide), hother 16 (by decide), h15, h16, Bool.and_not_self, Bool.and_not_self]

theorem clearErr_of_clear {p : PcmState} (htx : p.txErr = false) (hrx : p.rxErr = false) :
    { p with txErr := false, rxErr := false } = p := by
  cases p
  cases htx
  cases hrx
  rfl

section
variable {s : State} {rest : List HostOp} (hfault : s.host.loopFault = none)
include hfault

theorem readStatus_hostTurn (hwin : 0 < s.cfg.winPcm) (hops : s.host.ops = .readStatus :: rest) :
    s.hostTurn = .next (s.readStatusStep rest) :=
  (hostTurn_of_ops hfault hops).trans (issues_of_ok ((decode_pcmRdcs _).trans (if_neg hwin.ne')) _)

/-- Step 3's write clears the flags found set, and a flag found set is an error of the iteration. -/
theorem clearErrors_hostTurn (hinv : s.pcm.Sound s.cfg) (hwin : 0 < s.cfg.winPcm)
    (hpoll : s.host.pollCs &&& csErrBits = errFlagBits s.pcm.txErr s.pcm.rxErr)
    (hops : s.host.ops = .clearErrors :: rest) : s.hostTurn = .next { s with
      pcm := { s.pcm with txErr := false, rxErr := false }
      host := { s.host with ops := rest, err := s.host.err || s.pcm.txErr || s.pcm.rxErr } } := by
  have hset : ∀ tx rx, errFlagBits tx rx ≠ 0#32 ↔ (tx || rx) = true := by decide
  have hturn : s.hostTurn = s.clearErrorsStep rest := hostTurn_of_ops hfault hops
  rw [hturn, State.clearErrorsStep, hpoll]
  by_cases herr : (s.pcm.txErr || s.pcm.rxErr) = true
  · have hdec := (decode_pcmWrcs s.cfg
      (s.pcm.csStored ||| errFlagBits s.pcm.txErr s.pcm.rxErr)).trans (if_neg hwin.ne')
    obtain ⟨hres, -⟩ := csStored_or_errFlagBits hinv s.pcm.txErr s.pcm.rxErr
    rw [if_pos ((hset _ _).2 herr), runEncoded_of_ok (by exact hdec), Bool.or_assoc, herr, Bool.or_true,
      ← writeCs_errFlagBits hinv]
    exact if_neg (not_not.2 hres)
  · obtain ⟨htx, hrx⟩ := Bool.or_eq_false_iff.1 (Bool.not_eq_true _ ▸ herr)
    rw [if_neg (mt (hset _ _).1 herr), clearErr_of_clear htx hrx, htx, hrx, Bool.or_false, Bool.or_false]
    rfl

/-- Step 4 adopts the hardware's buffer, and a buffer that disagreed is an error of the iteration. -/
theorem adopt_hostTurn (hops : s.host.ops = .adopt :: rest) : s.hostTurn = .next { s with
    host := { s.host with
      ops := rest
      err := s.host.err || decide (s.host.hwBuf ≠ s.host.curBuf)
      curBuf := s.host.hwBuf } } := by
  have hturn : s.hostTurn = .next (s.adoptStep rest) := hostTurn_of_ops hfault hops
  rw [hturn, State.adoptStep]
  by_cases h : s.host.hwBuf = s.host.curBuf
  · rw [if_neg (not_not.2 h), decide_eq_false (not_not.2 h), Bool.or_false, h]
    rfl
  · rw [if_pos h, decide_eq_true h, Bool.or_true]
    rfl

/-- Step 5 counts one dropout for an iteration with an error. -/
theorem notify_hostTurn (hops : s.host.ops = .notify :: rest) : s.hostTurn = .next { s with
    host := { s.host with ops := rest, dropouts := s.host.dropouts + if s.host.err then 1 else 0 } } := by
  have hturn : s.hostTurn = .next (s.notifyStep rest) := hostTurn_of_ops hfault hops
  rw [hturn, State.notifyStep]
  split <;> rfl

end

/-- Settles O50: one turn for each step, a flag or a disagreement found leaving its mark for the last;
without a window the first turn is refused. -/
theorem oneDropoutPerIteration : Obligations.OneDropoutPerIteration := by
  intro s rest hinv hfault hops err
  rw [PcmState.inv_iff] at hinv
  refine ⟨fun hwin => ⟨.outOfWindow, ?_⟩, fun hwin => ⟨s.csAWord s.free, ?_⟩⟩
  · exact hostTurns_of_refused ((hostTurn_of_ops hfault hops).trans
      (issues_of_error ((decode_pcmRdcs _).trans (if_pos hwin)) _)) 3
  · have hstatus := (hostTurns_succ (n := 0) rfl).trans (readStatus_hostTurn hfault hwin hops)
    have hclear := (hostTurns_succ hstatus).trans (clearErrors_hostTurn (s := s.readStatusStep _)
      hfault hinv hwin (csAWord_errFlagBits hinv s.free) rfl)
    have hadopt := (hostTurns_succ hclear).trans (adopt_hostTurn (by exact hfault) rfl)
    exact (hostTurns_succ hadopt).trans (notify_hostTurn (by exact hfault) rfl)

/-! ### The sequences (44 R230, R233, R235, R240) -/

theorem busAddr_descAddr_zero (c : Cfg) : busAddr (c.descAddr 0) = c.blockBus := by
  rw [busAddr, Cfg.descAddr, Nat.mul_zero, Nat.add_zero, Cfg.descBus, BitVec.ofNat_toNat,
    BitVec.setWidth_eq]

section
variable {s : State} (hbusy : s.callBusy = false)
include hbusy

theorem runTurn_start : s.runTurn (.call .start) =
    if s.host.tstate = .stopped ∧ s.host.inited then .next (s.withOps (startOps s.cfg))
    else .refused .lifecycle := by
  simp [State.runTurn, State.callTurn, hbusy]

theorem runTurn_stop : s.runTurn (.call .stop) =
    if s.host.tstate = .running ∧ s.host.inited then .next (s.stopCall []) else .refused .lifecycle := by
  simp [State.runTurn, State.callTurn, hbusy]

theorem runTurn_restart : s.runTurn (.call .restart) =
    if s.host.tstate = .running ∧ s.host.inited then .next (s.stopCall (startOps s.cfg))
    else .refused .lifecycle := by
  simp [State.runTurn, State.callTurn, hbusy]

end

/-- Settles O51: a call made while none is pending tests the state and the mark of INIT, then queues its
sequence; the loop head tests the exit flag. -/
theorem lifecycleSequences : Obligations.LifecycleSequences := by
  intro s start stop k
  have hstart : startOps s.cfg = start := by
    rw [startOps, armOps, busAddr_descAddr_zero, List.append_assoc _ enableOps]
    rfl
  refine ⟨fun hstate hops hinit => ?_, fun hstate hops => ?_, fun hstate hexit => ?_,
    fun rest hfault hops => ?_⟩
  · rw [runTurn_start (callBusy_of_stopped hstate hops), if_pos ⟨hstate, hinit⟩, hstart]
    rfl
  · have hbusy := callBusy_of_stopped hstate hops
    have hrunning : ¬s.host.tstate = .running := by simp [hstate]
    rw [runTurn_start hbusy, runTurn_stop hbusy, runTurn_restart hbusy]
    exact ⟨fun hinit => if_neg (by simp [hinit]), if_neg (mt And.left hrunning),
      if_neg (mt And.left hrunning)⟩
  · have hbusy := callBusy_of_running hstate hexit
    rw [runTurn_start hbusy, runTurn_stop hbusy, runTurn_restart hbusy]
    refine ⟨if_neg (by simp [hstate]), fun hinit => ?_⟩
    rw [if_pos ⟨hstate, hinit⟩, if_pos ⟨hstate, hinit⟩, hstart, State.stopCall, List.append_nil]
    exact ⟨rfl, rfl⟩
  · have hturn : s.hostTurn = .next (s.loopHeadStep rest) := hostTurn_of_ops hfault hops
    rw [hturn, State.loopHeadStep]
    exact ⟨fun hexit => congrArg _ (if_pos hexit),
      fun hexit => congrArg _ (if_neg (Bool.not_eq_true _ ▸ hexit))⟩

end Sys2Proof.Machine
end

section
/-! SUPPORT. The codec and its clock (44 R233, R234, 70 R342): what a step can do to them. Followed once
through every operation that a step is made of; all but START's reset leave both alone. -/

namespace Sys2Proof.Machine

/-- Whether the codec is up, and whether its clock runs. -/
def State.codec (s : State) : Bool × Bool := (s.env.codecUp, s.env.codecClk)

/-- Whatever next state the outcome `r` gives has the codec as it is in `s`. -/
def State.OutcomeKeepsCodec (s : State) (r : Res) : Prop := ∀ t, r = .next t → t.codec = s.codec

/-- Everything a step can do to the codec and its clock. -/
inductive State.CodecMoves (s : State) : Bool × Bool → Prop
  | stay : s.CodecMoves s.codec
  | reset : s.CodecMoves (false, false)
  | clock (on : Bool) : s.CodecMoves (s.env.codecUp, on && s.env.codecUp)
  | bringUp {rest : List HostOp} (hops : s.host.ops = .codecBringUp :: rest) : s.CodecMoves (true, true)

/-- A codec that is down comes up only by its answer to START's step 2 (44 R234). -/
theorem State.CodecMoves.up {s : State} {c : Bool × Bool} (h : s.CodecMoves c)
    (hdown : s.env.codecUp = false) (hup : c.1 = true) : ∃ rest, s.host.ops = .codecBringUp :: rest := by
  cases h with
  | stay | clock => exact absurd (hdown.symm.trans hup) (by decide)
  | reset => exact absurd hup (by decide)
  | bringUp hops => exact ⟨_, hops⟩

/-- A clock that does not run starts only while the codec is up, or by that answer (70 R342). -/
theorem State.CodecMoves.clk {s : State} {c : Bool × Bool} (h : s.CodecMoves c)
    (hstopped : s.env.codecClk = false) (hclk : c.2 = true) :
    s.env.codecUp = true ∨ ∃ rest, s.host.ops = .codecBringUp :: rest := by
  cases h with
  | stay => exact absurd (hstopped.symm.trans hclk) (by decide)
  | reset => exact absurd hclk (by decide)
  | clock on => exact .inl (Bool.and_eq_true_iff.1 hclk).2
  | bringUp hops => exact .inr ⟨_, hops⟩

/-! ### Outcomes -/

section
variable {s : State}

theorem outcomeKeepsCodec_next {t : State} (h : t.codec = s.codec := by rfl) :
    s.OutcomeKeepsCodec (.next t) := by
  rintro _ ⟨⟩
  exact h

theorem outcomeKeepsCodec_refused (r : Refusal) : s.OutcomeKeepsCodec (.refused r) :=
  fun _ h => nomatch h

theorem outcomeKeepsCodec_ite {p : Prop} [Decidable p] {r r' : Res} (h : s.OutcomeKeepsCodec r)
    (h' : s.OutcomeKeepsCodec r') : s.OutcomeKeepsCodec (if p then r else r') := by
  split
  · exact h
  · exact h'

theorem outcomeKeepsCodec_refusedUnless {p : Prop} [Decidable p] {r : Res} (h : s.OutcomeKeepsCodec r)
    (e : Refusal) : s.OutcomeKeepsCodec (if p then r else .refused e) :=
  outcomeKeepsCodec_ite h (outcomeKeepsCodec_refused e)

theorem outcomeKeepsCodec_refusedIf {p : Prop} [Decidable p] {r : Res} (h : s.OutcomeKeepsCodec r)
    (e : Refusal) : s.OutcomeKeepsCodec (if p then .refused e else r) :=
  outcomeKeepsCodec_ite (outcomeKeepsCodec_refused e) h

theorem onChannel_keepsCodec {r : Res} (h : s.OutcomeKeepsCodec r) (ch : BitVec 4) :
    s.OutcomeKeepsCodec (s.onChannel ch r) :=
  outcomeKeepsCodec_refusedUnless h _

theorem programs_keepsCodec {r : Res} (h : s.OutcomeKeepsCodec r) : s.OutcomeKeepsCodec (s.programs r) :=
  outcomeKeepsCodec_refusedUnless h _

theorem issues_keepsCodec {i : Instr} {r : Res} (h : s.OutcomeKeepsCodec r) :
    s.OutcomeKeepsCodec (s.issues i r) :=
  fun t ht => h t (issues_next ht)

/-! ### Accesses to the FIFO port and to memory -/

theorem popRx_codec {t : State} {w : Word} (h : s.popRx = .ok (w, t)) : t.codec = s.codec := by
  obtain ⟨r, -, rfl⟩ := popRx_ok h
  rfl

theorem pushTx_codec {t : State} {v : Word} (h : s.pushTx v = .ok t) : t.codec = s.codec := by
  obtain ⟨-, rfl⟩ := pushTx_ok h
  rfl

theorem busRead_codec {t : State} {a w : Word} (h : s.busRead a = .ok (w, t)) : t.codec = s.codec := by
  obtain ⟨-, r, -, rfl⟩ | ⟨-, -, -, rfl⟩ := busRead_ok h <;> rfl

theorem busWrite_codec {t : State} {a v : Word} (h : s.busWrite a v = .ok t) : t.codec = s.codec := by
  obtain ⟨-, -, rfl⟩ | ⟨-, -, rfl⟩ := busWrite_ok h <;> rfl

theorem hostRead_codec {t : State} {a w : Word} (h : s.hostRead a = .ok (w, t)) : t.codec = s.codec := by
  obtain ⟨-, -, r, -, rfl⟩ | ⟨-, -, -, rfl⟩ := hostRead_ok h
  · rfl
  · split <;> rfl

theorem hostWrite_codec {t : State} {a v : Word} (h : s.hostWrite a v = .ok t) : t.codec = s.codec := by
  obtain ⟨-, -, -, rfl⟩ | ⟨-, -, -, -, rfl⟩ := hostWrite_ok h <;> rfl

theorem portRead_keepsCodec {x : Access (Word × State)}
    (h : ∀ w t, x = .ok (w, t) → t.codec = s.codec) : s.OutcomeKeepsCodec (portRead x) := by
  intro t ht
  obtain ⟨w, u, hx, rfl⟩ := portRead_next ht
  exact h w u hx

theorem portWrite_keepsCodec {x : Access State} (h : ∀ t, x = .ok t → t.codec = s.codec) :
    s.OutcomeKeepsCodec (portWrite x) :=
  fun t ht => h t (portWrite_next ht)

theorem walkWrite_keepsCodec (a v : Word) (rest : List HostOp) :
    s.OutcomeKeepsCodec (s.walkWrite a v rest) := by
  intro t ht
  obtain ⟨u, hu, rfl⟩ := walkWrite_next ht
  exact (hostWrite_codec hu :)

/-! ### Instructions -/

theorem transferStep_keepsCodec (d : Desc) (dreq : Bool) :
    s.OutcomeKeepsCodec (s.transferStep d dreq) := by
  intro t ht
  obtain rfl | ⟨-, ⟨-, rfl⟩ | ⟨-, -, hbeat⟩ | ⟨-, hbeat⟩⟩ := transferStep_next ht
  · rfl
  · rfl
  · obtain rfl | ⟨w, u, hu, rfl⟩ := readBeat_next hbeat
    · rfl
    · exact (busRead_codec hu :)
  · obtain rfl | ⟨u, hu, rfl⟩ := writeBeat_next hbeat
    · rfl
    · exact (busWrite_codec hu :)

end

theorem exec_keepsCodec (i : Instr) (s : State) : s.OutcomeKeepsCodec (exec i s) := by
  cases i with
  | xferRx d | xferTx d => exact transferStep_keepsCodec d _
  | xferOther d => exact outcomeKeepsCodec_refused _
  | dmaReset ch v | dmaAbort ch v | dmaGo ch v | dmaPause ch v | dmaSetcb ch v =>
    exact onChannel_keepsCodec (outcomeKeepsCodec_refusedIf outcomeKeepsCodec_next _) ch
  | dmaRdcs ch | dmaRdpos ch | dmaRdti ch | dmaRdsrc ch | dmaRddst ch | dmaRdlen ch | dmaRdstride ch
  | dmaRdnext ch | dmaRddbg ch | dmaClrdbg ch v => exact onChannel_keepsCodec outcomeKeepsCodec_next ch
  | pcmRdfifo => exact programs_keepsCodec (portRead_keepsCodec fun _ _ => popRx_codec)
  | pcmWrfifo v => exact programs_keepsCodec (portWrite_keepsCodec fun _ => pushTx_codec)
  | pcmWrcs v => exact outcomeKeepsCodec_refusedIf outcomeKeepsCodec_next _
  | pcmWrmode v =>
    exact programs_keepsCodec (outcomeKeepsCodec_refusedIf
      (outcomeKeepsCodec_refusedIf outcomeKeepsCodec_next _) _)
  | pcmWrrxc v | pcmWrtxc v =>
    exact programs_keepsCodec (outcomeKeepsCodec_refusedUnless outcomeKeepsCodec_next _)
  | pcmWrdreq v | pcmWrinten v =>
    exact programs_keepsCodec (outcomeKeepsCodec_refusedIf outcomeKeepsCodec_next _)
  | gpioSetfn reg field f => exact outcomeKeepsCodec_refusedUnless outcomeKeepsCodec_next _
  | pcmRdcs | pcmRdmode | pcmRdrxc | pcmRdtxc | pcmRddreq | pcmRdinten | pcmRdintstc | pcmWrintstc v
  | gpioRead bank | gpioSet bank v | gpioClr bank v | gpioPud v | gpioPudclk bank v | cvtI2f w
  | cvtI2fV4 w0 w1 w2 w3 | cvtF2i w | cvtF2iV4 w0 w1 w2 w3 => exact outcomeKeepsCodec_next

theorem runEncoded_keepsCodec (s : State) (e : Encoded) : s.OutcomeKeepsCodec (s.runEncoded e) := by
  intro t ht
  obtain ⟨i, -, hi⟩ := runEncoded_next ht
  exact exec_keepsCodec i s t hi

/-! ### HOST's sequences -/

section
variable {s : State} (rest : List HostOp)

theorem pipeInStep_keepsCodec (k : Fin 2) (i : Nat) : s.OutcomeKeepsCodec (s.pipeInStep k i rest) := by
  refine outcomeKeepsCodec_ite ?_ outcomeKeepsCodec_next
  split
  next w t hread => exact outcomeKeepsCodec_next (hostRead_codec hread :)
  next => exact outcomeKeepsCodec_refused _
  next => exact outcomeKeepsCodec_refused _

theorem readPositionStep_codec : (s.readPositionStep rest).codec = s.codec := by
  unfold State.readPositionStep
  split <;> rfl

theorem busyPollStep_codec : (s.busyPollStep rest).codec = s.codec := by
  unfold State.busyPollStep
  split
  · split <;> rfl
  · rfl

theorem adoptStep_codec : (s.adoptStep rest).codec = s.codec := by
  unfold State.adoptStep
  split <;> rfl

theorem notifyStep_codec : (s.notifyStep rest).codec = s.codec := by
  unfold State.notifyStep
  split <;> rfl

theorem loopHeadStep_codec : (s.loopHeadStep rest).codec = s.codec := by
  unfold State.loopHeadStep
  split <;> rfl

theorem snapshotStep_codec (i : Nat) : (s.snapshotStep i rest).codec = s.codec := by
  unfold State.snapshotStep
  split
  · dsimp only
    split <;> rfl
  · rfl

/-- Of the steps of HOST's sequences only START's first touches the codec (44 R233). -/
theorem hostOpStep_keepsCodec {op : HostOp} (hop : op ≠ .codecReset) :
    s.OutcomeKeepsCodec (s.hostOpStep op rest) := by
  cases op with
  | codecReset => exact absurd rfl hop
  | run i | csWrite clr set => exact runEncoded_keepsCodec (s.withOps rest) _
  | codecBringUp | chainBases | startDone | stopDone | pipeCall | sleep =>
    exact outcomeKeepsCodec_next
  | clearRegion i | chainBuild i =>
    exact outcomeKeepsCodec_ite (walkWrite_keepsCodec _ _ _) outcomeKeepsCodec_next
  | loopHead => exact outcomeKeepsCodec_next (loopHeadStep_codec rest)
  | pipeIn k i => exact pipeInStep_keepsCodec rest k i
  | pipeOut k i =>
    exact outcomeKeepsCodec_ite (walkWrite_keepsCodec (s := s.drew 1) _ _ _) outcomeKeepsCodec_next
  | readPosition => exact issues_keepsCodec (outcomeKeepsCodec_next (readPositionStep_codec rest))
  | readStatus | position => exact issues_keepsCodec outcomeKeepsCodec_next
  | clearErrors =>
    exact outcomeKeepsCodec_ite
      (runEncoded_keepsCodec ((s.withHost { s.host with err := true }).withOps rest) _)
      outcomeKeepsCodec_next
  | adopt => exact outcomeKeepsCodec_next (adoptStep_codec rest)
  | notify => exact outcomeKeepsCodec_next (notifyStep_codec rest)
  | busyPoll => exact issues_keepsCodec (outcomeKeepsCodec_next (busyPollStep_codec rest))
  | snapshot i => exact outcomeKeepsCodec_next (snapshotStep_codec rest i)
  | gpioLevel pin =>
    exact outcomeKeepsCodec_refusedUnless (issues_keepsCodec outcomeKeepsCodec_next) _
  | gpioPull pin mode =>
    exact outcomeKeepsCodec_refusedUnless
      (issues_keepsCodec (issues_keepsCodec outcomeKeepsCodec_next)) _

end

/-! ### The agents' turns -/

section
variable {s t : State}

theorem State.OutcomeKeepsCodec.moves {r : Res} (h : s.OutcomeKeepsCodec r) (ht : r = .next t) :
    s.CodecMoves t.codec :=
  h t ht ▸ .stay

theorem hostTurn_codecMoves (h : s.hostTurn = .next t) : s.CodecMoves t.codec := by
  unfold State.hostTurn at h
  split at h
  next op rest hops =>
    split at h
    · cases h
      exact .stay
    · by_cases hop : op = .codecReset
      · subst hop
        cases h
        exact .reset
      · exact (hostOpStep_keepsCodec rest hop).moves h
  next =>
    cases h
    exact .stay

theorem dmaTurn_keepsCodec : s.OutcomeKeepsCodec s.dmaTurn := by
  refine outcomeKeepsCodec_ite ?_ outcomeKeepsCodec_next
  split
  · exact outcomeKeepsCodec_next
  · exact outcomeKeepsCodec_ite outcomeKeepsCodec_next
      (outcomeKeepsCodec_ite (runEncoded_keepsCodec s _) outcomeKeepsCodec_next)
  · exact exec_keepsCodec _ s
  · exact exec_keepsCodec _ s

theorem rxWord_codec (v : BitVec 24) : (s.rxWord v).codec = s.codec := by
  unfold State.rxWord
  split
  · rfl
  · dsimp only
    split <;> rfl

theorem txWord_codec : s.txWord.codec = s.codec := by
  unfold State.txWord
  split
  · rfl
  · dsimp only
    split <;> rfl

theorem initCall_codec (alloc : AllocOutcome) (i o : Nat) : (s.initCall alloc i o).codec = s.codec := by
  unfold State.initCall
  dsimp only
  split <;> rfl

theorem callTurn_keepsCodec (c : Call) : s.OutcomeKeepsCodec (s.callTurn c) := by
  refine outcomeKeepsCodec_ite outcomeKeepsCodec_next ?_
  cases c with
  | init alloc i o =>
    exact outcomeKeepsCodec_refusedUnless (outcomeKeepsCodec_next (initCall_codec alloc i o)) _
  | start | stop | restart | getLastError =>
    exact outcomeKeepsCodec_refusedUnless outcomeKeepsCodec_next _

theorem codecReadyTurn_codecMoves (ok : Bool) : s.CodecMoves (s.codecReadyTurn ok).codec := by
  unfold State.codecReadyTurn
  split
  next rest hops =>
    split
    · exact .bringUp hops
    · exact .stay
  next => exact .stay

theorem callbackTurn_codec (out0 out1 : List Word) (exit : Bool) :
    (s.callbackTurn out0 out1 exit).codec = s.codec := by
  unfold State.callbackTurn
  split <;> rfl

theorem runTurn_codecMoves {turn : Turn} (h : s.runTurn turn = .next t) : s.CodecMoves t.codec := by
  cases turn with
  | dma => exact dmaTurn_keepsCodec.moves h
  | rx v => exact (outcomeKeepsCodec_next (rxWord_codec v)).moves h
  | tx => exact (outcomeKeepsCodec_next txWord_codec).moves h
  | reg w => exact (runEncoded_keepsCodec s (.reg w)).moves h
  | cvt sel w0 w1 w2 w3 => exact (runEncoded_keepsCodec s (.cvt sel w0 w1 w2 w3)).moves h
  | memRead a => exact (portRead_keepsCodec fun _ _ => hostRead_codec).moves h
  | memWrite a v => exact (portWrite_keepsCodec fun _ => hostWrite_codec).moves h
  | pseudo p => exact pseudoTurn_next h ▸ .stay
  | host => exact hostTurn_codecMoves h
  | call c => exact (callTurn_keepsCodec c).moves h
  | codecReady ok =>
    cases h
    exact codecReadyTurn_codecMoves ok
  | codecClock on =>
    cases h
    exact .clock on
  | callback out0 out1 exit => exact (outcomeKeepsCodec_next (callbackTurn_codec out0 out1 exit)).moves h
  | requestExit =>
    cases h
    exact .stay

/-- Taking the schedule's entry touches neither the codec nor HOST's sequence. -/
theorem takeTurn_codec : s.takeTurn.2.env.codecUp = s.env.codecUp ∧
    s.takeTurn.2.env.codecClk = s.env.codecClk ∧ s.takeTurn.2.host.ops = s.host.ops := by
  unfold State.takeTurn
  split <;> exact ⟨rfl, rfl, rfl⟩

end

theorem codecReadyTurn_of_ops {s : State} {rest : List HostOp} (hops : s.host.ops = .codecBringUp :: rest)
    (ok : Bool) : s.codecReadyTurn ok =
      if ok then (s.withOps rest).withEnv { s.env with codecUp := true, codecClk := true }
      else s.withHost { s.host with
        ops := [], lastError := .codecFailed, result := .error .codecFailed } := by
  rw [State.codecReadyTurn, hops]

/-- Settles O53: START's two steps and the answers to the second, and the moves a step can make. -/
theorem codecClockOnlyAfterBringUp : Obligations.CodecClockOnlyAfterBringUp := by
  refine ⟨fun s rest hfault => ⟨fun hops => ?_, fun hops => ⟨?_, ?_, ?_⟩, fun on => rfl⟩,
    fun s t hstep => ?_⟩
  · exact hostTurn_of_ops hfault hops
  · exact hostTurn_of_ops hfault hops
  · exact congrArg Host.Outcome.next (codecReadyTurn_of_ops hops true)
  · exact congrArg Host.Outcome.next (codecReadyTurn_of_ops hops false)
  · have hmove := runTurn_codecMoves hstep
    obtain ⟨hup, hclk, hops⟩ := takeTurn_codec (s := s)
    refine ⟨fun hdown => ?_, fun hstopped => ?_⟩
    · exact hops ▸ hmove.up (hup.trans hdown)
    · exact hup ▸ hops ▸ hmove.clk (hclk.trans hstopped)

end Sys2Proof.Machine
end

section
/-! SUPPORT. The converter (45 R271 to R279, R285): what the scalings by `SCALE_IN` and `SCALE_OUT` do to a
significand, so that the second undoes the first, and how far a clamped operand is scaled. -/

namespace Sys2Proof.Machine

/-! ### The operations (45 R271 to R277) -/

theorem f2i_of_not_nan {f : Word} (h : f32IsNaN f = false) (mode : Rounding) (nan : Word) :
    f2i mode nan f =
      BitVec.ofInt 32 (roundToInt mode (f32Mul (f32Clamp f f32NegOne f32One) scaleOut)) := by
  rw [f2i, h, if_neg Bool.false_ne_true]

/-- Settles O44: the meanings are the formulas, a NaN's free word apart. -/
theorem converterOperationResults : Obligations.ConverterOperationResults := by
  intro s w0 w1 w2 w3 toF toI
  have hlane (nan f : Word) : toI f (f2i s.cfg.f2iRound nan f) := fun h => f2i_of_not_nan h _ nan
  exact ⟨rfl, rfl, ⟨_, hlane _ w0, rfl⟩,
    ⟨_, _, _, _, hlane _ w0, hlane _ w1, hlane _ w2, hlane _ w3, rfl⟩⟩

/-! ### The clamp (45 R274) -/

theorem toNat_eq_sign_add_magnitude (w : Word) :
    w.toNat = (if w.getLsbD 31 then 2 ^ 31 else 0) + (w.extractLsb' 0 31).toNat := by
  have hlt := w.isLt
  rw [BitVec.extractLsb'_toNat, Nat.shiftRight_zero, ← BitVec.testBit_toNat,
    Nat.testBit_eq_decide_div_mod_eq]
  simp only [decide_eq_true_eq]
  split <;> omega

/-- Every pattern is its sign and its other 31 bits. -/
theorem f32Pattern_magnitude_self (w : Word) :
    f32Pattern (w.getLsbD 31) (w.extractLsb' 0 31).toNat = w :=
  BitVec.eq_of_toNat_eq <| by
    rw [f32Pattern_toNat _ (w.extractLsb' 0 31).isLt, ← toNat_eq_sign_add_magnitude]

theorem f32IsNaN_f32Pattern (neg : Bool) {mag : Nat} (hmag : mag < 2 ^ 31) :
    f32IsNaN (f32Pattern neg mag) = decide (0x7F800000 < mag) := by
  rw [f32IsNaN, f32Pattern_magnitude neg hmag]

theorem f32Key_f32Pattern (neg : Bool) {mag : Nat} (hmag : mag < 2 ^ 31) :
    f32Key (f32Pattern neg mag) = if neg then -(mag : ℤ) else mag := by
  rw [f32Key, f32Pattern_sign neg hmag, f32Pattern_magnitude neg hmag]

theorem f32Key_f32One : f32Key f32One = 0x3F800000 := by decide

theorem f32Key_f32NegOne : f32Key f32NegOne = -0x3F800000 := by decide

/-- Within `±1.0` the clamp leaves the operand. -/
theorem f32Clamp_of_magnitude_le (neg : Bool) {mag : Nat} (h : mag ≤ 0x3F800000) :
    f32Clamp (f32Pattern neg mag) f32NegOne f32One = f32Pattern neg mag := by
  have hkey := f32Key_f32Pattern neg (mag := mag) (by omega)
  rw [f32Clamp, f32Key_f32One, f32Key_f32NegOne, hkey, if_neg (by split <;> omega),
    if_neg (by split <;> omega)]

/-- At and beyond `±1.0` it gives `±1.0`. -/
theorem f32Clamp_of_le_magnitude (neg : Bool) {mag : Nat} (hmag : mag < 2 ^ 31)
    (h : 0x3F800000 ≤ mag) :
    f32Clamp (f32Pattern neg mag) f32NegOne f32One = f32Pattern neg 0x3F800000 := by
  obtain rfl | hlt := h.eq_or_lt
  · exact f32Clamp_of_magnitude_le neg le_rfl
  have hkey := f32Key_f32Pattern neg hmag
  rw [f32Clamp, f32Key_f32One, f32Key_f32NegOne, hkey]
  cases neg with
  | true => exact if_pos (by rw [if_pos rfl]; omega)
  | false =>
    rw [if_neg Bool.false_ne_true, if_neg (by omega), if_pos (by omega)]
    rfl

/-- `±1.0` is scaled to a whole number, so both rounding modes give it. -/
theorem roundToInt_scaled_one (mode : Rounding) (neg : Bool) :
    BitVec.ofInt 32 (roundToInt mode (f32Mul (f32Pattern neg 0x3F800000) scaleOut)) =
      if neg then 0xFF800001#32 else 0x007FFFFF#32 := by
  cases neg <;> cases mode <;> decide

/-- At and beyond `±1.0` the result is the end of the range. -/
theorem f2i_of_le_magnitude (mode : Rounding) (nan : Word) {f : Word} (hnan : f32IsNaN f = false)
    (h : 0x3F800000 ≤ (f.extractLsb' 0 31).toNat) :
    f2i mode nan f = if f.getLsbD 31 then 0xFF800001#32 else 0x007FFFFF#32 := by
  have hclamp := f32Clamp_of_le_magnitude (f.getLsbD 31) (f.extractLsb' 0 31).isLt h
  rw [f32Pattern_magnitude_self] at hclamp
  rw [f2i_of_not_nan hnan, hclamp, roundToInt_scaled_one]

/-! ### Significands in a binade -/

theorem roundShift_mul_two_pow (m j : ℕ) : roundShift (m * 2 ^ j) j = m := by
  have hpos : 0 < 2 ^ j := by positivity
  unfold roundShift
  rw [Nat.mul_mod_left, Nat.mul_div_cancel _ hpos]
  exact if_neg (by omega)

theorem f32Unpack_f32Pattern_binade (neg : Bool) {n q : Nat} (hn : n ≤ 252) (hlo : 2 ^ 23 ≤ q)
    (hhi : q < 2 ^ 24) : f32Unpack (f32Pattern neg (n * 2 ^ 23 + q)) = ⟨neg, q, n - 149⟩ := by
  have hexp : (n * 2 ^ 23 + q) / 2 ^ 23 = n + 1 := by omega
  have hfrac : (n * 2 ^ 23 + q) % 2 ^ 23 + 2 ^ 23 = q := by omega
  rw [f32Unpack_f32Pattern neg (by omega), if_neg (by omega), hexp, hfrac]
  congr 1
  push_cast
  ring

/-- A significand carried into the next binade is the least one there. -/
theorem f32Pattern_carry (neg : Bool) (n : Nat) :
    f32Pattern neg (n * 2 ^ 23 + 2 ^ 24) = f32Pattern neg ((n + 1) * 2 ^ 23 + 2 ^ 23) :=
  congrArg _ (by omega)

/-- Rounding drops `k` places of a magnitude of `k + 24` bits. -/
theorem f32Round_of_bits (neg : Bool) {m k n : ℕ} {e : ℤ} (hlo : 2 ^ (k + 23) ≤ m)
    (hhi : m < 2 ^ (k + 24)) (hbinade : e + k + 149 = n) (hn : n ≤ 252) :
    f32Round neg m e = f32Pattern neg (n * 2 ^ 23 + roundShift m k) := by
  have hm : m ≠ 0 := fun h => by simp [h] at hlo
  have hlog : Nat.log2 m = k + 23 := (Nat.log2_eq_iff hm).2 ⟨hlo, hhi⟩
  have hk : roundPlaces m e = k := by
    rw [roundPlaces, hlog]
    omega
  have hmant : roundMant m e = roundShift m k := by
    rw [roundMant, hk, if_pos (by omega), Int.toNat_natCast]
  have hbin : roundBinade m e = n := by
    rw [roundBinade, hk, hbinade, Int.toNat_natCast]
  have hle := roundMant_le m e
  rw [f32Round_eq neg hm, hbin, min_eq_left (by omega), hmant]

/-! ### Rounding to an integer (45 R276) -/

/-- A magnitude rounded to a whole number. -/
def wholeMagnitude (mode : Rounding) (mant : ℕ) (exp : ℤ) : ℕ :=
  if 0 ≤ exp then mant * 2 ^ exp.toNat
  else match mode with
    | .rne => roundShift mant (-exp).toNat
    | .rtz => mant / 2 ^ (-exp).toNat

theorem roundToInt_eq (mode : Rounding) (p : Word) : roundToInt mode p =
    if (f32Unpack p).neg then -(wholeMagnitude mode (f32Unpack p).mant (f32Unpack p).exp : ℤ)
    else wholeMagnitude mode (f32Unpack p).mant (f32Unpack p).exp := by
  unfold roundToInt wholeMagnitude
  rfl

/-- `j` places below the point, all of them 0, are dropped without a rounding. -/
theorem wholeMagnitude_exact (mode : Rounding) (m j : ℕ) : wholeMagnitude mode (m * 2 ^ j) (-j) = m := by
  unfold wholeMagnitude
  split
  next h =>
    obtain rfl : j = 0 := by omega
    simp
  next =>
    rw [neg_neg, Int.toNat_natCast]
    cases mode with
    | rne => exact roundShift_mul_two_pow m j
    | rtz => exact Nat.mul_div_cancel m (by positivity)

/-! ### Whole numbers of at most 24 bits (45 R271) -/

section
variable {m j : ℕ} (hm : m ≠ 0) (hlog : Nat.log2 m + j = 23)
include hm hlog

/-- Moved up by `j` places the number is a significand. -/
theorem significand_bounds : 2 ^ 23 ≤ m * 2 ^ j ∧ m * 2 ^ j < 2 ^ 24 := by
  constructor
  · calc 2 ^ 23 = 2 ^ Nat.log2 m * 2 ^ j := by rw [← pow_add, hlog]
      _ ≤ m * 2 ^ j := Nat.mul_le_mul_right _ (Nat.log2_self_le hm)
  · calc m * 2 ^ j < 2 ^ (Nat.log2 m + 1) * 2 ^ j :=
          Nat.mul_lt_mul_of_pos_right Nat.lt_log2_self (by positivity)
      _ = 2 ^ 24 := by rw [pow_succ, mul_right_comm, ← pow_add, hlog, ← pow_succ]

/-- Its pattern holds the number unrounded. -/
theorem f32Round_whole (neg : Bool) :
    f32Round neg m 0 = f32Pattern neg ((149 - j) * 2 ^ 23 + m * 2 ^ j) := by
  obtain ⟨-, hhi⟩ := significand_bounds hm hlog
  have hk : roundPlaces m 0 = -j := by
    unfold roundPlaces
    omega
  have hmant : roundMant m 0 = m * 2 ^ j := by
    rw [roundMant, hk, neg_neg, Int.toNat_natCast]
    split
    next h =>
      obtain rfl : j = 0 := by omega
      simpa using roundShift_mul_two_pow m 0
    next => rfl
  have hbinade : roundBinade m 0 = 149 - j := by
    rw [roundBinade, hk]
    omega
  rw [f32Round_eq neg hm, hbinade, hmant, min_eq_left (by omega)]

/-- From it the number is read back. -/
theorem roundToInt_whole (mode : Rounding) (neg : Bool) :
    roundToInt mode (f32Pattern neg ((149 - j) * 2 ^ 23 + m * 2 ^ j)) = if neg then -(m : ℤ) else m := by
  obtain ⟨hlo, hhi⟩ := significand_bounds hm hlog
  have hexp : ((149 - j : ℕ) - 149 : ℤ) = -j := by omega
  rw [roundToInt_eq, f32Unpack_f32Pattern_binade neg (by omega) hlo hhi, hexp, wholeMagnitude_exact]

end

/-! ### The scalings (45 R278) -/

theorem f32Unpack_scaleIn : f32Unpack scaleIn = ⟨false, 2 ^ 23 + 1, -46⟩ := by decide

theorem f32Unpack_scaleOut : f32Unpack scaleOut = ⟨false, 2 ^ 24 - 2, -1⟩ := by decide

/-- A product of `k + 24` bits, with a positive factor, is rounded by `k` places. -/
theorem f32Mul_of_bits (neg : Bool) {n q : ℕ} (hn : n ≤ 252) (hlo : 2 ^ 23 ≤ q) (hhi : q < 2 ^ 24)
    {y : Word} {b : ℕ} {e : ℤ} (hy : f32Unpack y = ⟨false, b, e⟩) {k n' : ℕ}
    (hplo : 2 ^ (k + 23) ≤ q * b) (hphi : q * b < 2 ^ (k + 24)) (hbinade : n + e + k = n')
    (hn' : n' ≤ 252) : f32Mul (f32Pattern neg (n * 2 ^ 23 + q)) y =
      f32Pattern neg (n' * 2 ^ 23 + roundShift (q * b) k) := by
  rw [f32Mul, f32Unpack_f32Pattern_binade neg hn hlo hhi, hy]
  dsimp only
  rw [Bool.bne_false, f32Round_of_bits neg hplo hphi (by omega) hn']

/-- What `SCALE_IN` makes of an even significand. -/
def scaledIn (q : ℕ) : ℕ := if q < 3 * 2 ^ 22 then q + 1 else q + 2

section
variable (neg : Bool) {n q : ℕ} (hn : n + 23 ≤ 252) (hlo : 2 ^ 23 ≤ q) (hhi : q < 2 ^ 24)
  (heven : q % 2 = 0)
include hn hlo hhi heven

/-- The product has 47 bits, the low 23 of them those of the significand. -/
theorem f32Mul_scaleIn : f32Mul (f32Pattern neg ((n + 23) * 2 ^ 23 + q)) scaleIn =
    f32Pattern neg (n * 2 ^ 23 + scaledIn q) := by
  have hdiv : q * (2 ^ 23 + 1) / 2 ^ 23 = q + 1 := by omega
  have hmod : q * (2 ^ 23 + 1) % 2 ^ 23 = q - 2 ^ 23 := by omega
  have hround : roundShift (q * (2 ^ 23 + 1)) 23 = scaledIn q := by
    unfold roundShift scaledIn
    rw [hdiv, hmod]
    dsimp only
    split <;> split <;> omega
  rw [f32Mul_of_bits neg hn hlo hhi f32Unpack_scaleIn (k := 23) (n' := n) (by omega) (by omega)
    (by omega) (by omega), hround]

/-- `SCALE_OUT` takes away what `SCALE_IN` has added: the product has 47 bits at the ends of the binade and
48 between them. -/
theorem f32Mul_scaleOut : f32Mul (f32Pattern neg (n * 2 ^ 23 + scaledIn q)) scaleOut =
    f32Pattern neg ((n + 23) * 2 ^ 23 + q) := by
  obtain rfl | rfl | hmid : q = 2 ^ 23 ∨ q = 2 ^ 24 - 2 ∨ 2 ^ 23 + 2 ≤ q ∧ q < 2 ^ 24 - 2 := by omega
  · have hround : roundShift ((2 ^ 23 + 1) * (2 ^ 24 - 2)) 23 = 2 ^ 24 := by decide
    rw [show scaledIn (2 ^ 23) = 2 ^ 23 + 1 from rfl,
      f32Mul_of_bits neg (by omega) (by decide) (by decide) f32Unpack_scaleOut (k := 23) (n' := n + 22)
        (by decide) (by decide) (by omega) (by omega), hround, f32Pattern_carry]
  · have hround : roundShift (2 ^ 23 * (2 ^ 24 - 2)) 23 = 2 ^ 24 - 2 := by decide
    rw [show scaledIn (2 ^ 24 - 2) = 2 ^ 24 from rfl, f32Pattern_carry,
      f32Mul_of_bits neg (by omega) (by decide) (by decide) f32Unpack_scaleOut (k := 23) (n' := n + 23)
        (by decide) (by decide) (by omega) (by omega), hround]
  · have hbounds : 2 ^ 23 + 3 ≤ scaledIn q ∧ scaledIn q < 2 ^ 24 := by
      unfold scaledIn
      split <;> omega
    have hdiv : scaledIn q * (2 ^ 24 - 2) / 2 ^ 24 = scaledIn q - 2 := by omega
    have hmod : scaledIn q * (2 ^ 24 - 2) % 2 ^ 24 = 2 ^ 25 - 2 * scaledIn q := by omega
    have hround : roundShift (scaledIn q * (2 ^ 24 - 2)) 24 = q := by
      unfold roundShift
      rw [hdiv, hmod]
      unfold scaledIn
      dsimp only
      split <;> split <;> omega
    rw [f32Mul_of_bits neg (by omega) (by omega) (by omega) f32Unpack_scaleOut (k := 24) (n' := n + 23)
      (by omega) (by omega) (by omega) (by omega), hround]

end

theorem scaledIn_le {q : ℕ} (hhi : q < 2 ^ 24) (heven : q % 2 = 0) : scaledIn q ≤ 2 ^ 24 := by
  unfold scaledIn
  split <;> omega

/-! ### The round trip (45 R285) -/

/-- A significand with a last bit 0, in a binade of scaled samples, is taken back to what was scaled. -/
theorem f2i_scaledIn (mode : Rounding) (nan : Word) (neg : Bool) {n q : ℕ} (hn : n ≤ 125)
    (hlo : 2 ^ 23 ≤ q) (hhi : q < 2 ^ 24) (heven : q % 2 = 0) :
    f2i mode nan (f32Pattern neg (n * 2 ^ 23 + scaledIn q)) =
      BitVec.ofInt 32 (roundToInt mode (f32Pattern neg ((n + 23) * 2 ^ 23 + q))) := by
  have hle := scaledIn_le hhi heven
  have hnan : f32IsNaN (f32Pattern neg (n * 2 ^ 23 + scaledIn q)) = false := by
    rw [f32IsNaN_f32Pattern neg (by omega), decide_eq_false_iff_not]
    omega
  rw [f2i_of_not_nan hnan, f32Clamp_of_magnitude_le neg (by omega),
    f32Mul_scaleOut neg (by omega) hlo hhi heven]

/-- An integer is its magnitude with its sign. -/
theorem signed_natAbs (z : ℤ) : (if decide (z < 0) = true then -(z.natAbs : ℤ) else z.natAbs) = z := by
  simp only [decide_eq_true_eq]
  split <;> omega

theorem f2i_i2f (mode : Rounding) (nan : Word) {w : Word} (hw : w.toInt.natAbs < 2 ^ 23) :
    f2i mode nan (i2f w) = w := by
  obtain h0 | hm := eq_or_ne w.toInt.natAbs 0
  · obtain rfl : w = 0#32 := BitVec.eq_of_toInt_eq (Int.natAbs_eq_zero.1 h0)
    cases mode <;> rfl
  have hlt : Nat.log2 w.toInt.natAbs < 23 := (Nat.log2_lt hm).2 hw
  obtain ⟨i, hlog⟩ : ∃ i, Nat.log2 w.toInt.natAbs + (i + 1) = 23 :=
    ⟨22 - Nat.log2 w.toInt.natAbs, by omega⟩
  obtain ⟨hlo, hhi⟩ := significand_bounds hm hlog
  have heven : w.toInt.natAbs * 2 ^ (i + 1) % 2 = 0 := by rw [pow_succ, ← mul_assoc, Nat.mul_mod_left]
  have hbinade : 149 - (i + 1) = 125 - i + 23 := by omega
  calc f2i mode nan (i2f w)
      = f2i mode nan (f32Pattern (decide (w.toInt < 0))
          ((125 - i) * 2 ^ 23 + scaledIn (w.toInt.natAbs * 2 ^ (i + 1)))) := by
        rw [i2f, f32OfS32, f32Round_whole hm hlog, hbinade, f32Mul_scaleIn _ (by omega) hlo hhi heven]
    _ = BitVec.ofInt 32 w.toInt := by
        rw [f2i_scaledIn mode nan _ (Nat.sub_le ..) hlo hhi heven, ← hbinade, roundToInt_whole hm hlog,
          signed_natAbs]
    _ = w := BitVec.ofInt_toInt

/-- Settles O45: below `2^23` by the two scalings; `−2^23` is scaled beyond −1.0 and clamped. -/
theorem converterRoundTrip : Obligations.ConverterRoundTrip := by
  intro mode nan v
  constructor
  · intro hv
    refine f2i_i2f mode nan ?_
    have hne : v.toInt ≠ -2 ^ 23 := fun h => hv (BitVec.eq_of_toInt_eq h)
    have hlo := BitVec.le_toInt v
    have hhi := BitVec.toInt_lt (x := v)
    rw [BitVec.toInt_signExtend_of_le (by decide)]
    norm_num at hne hlo hhi
    omega
  · rintro rfl
    have hi2f : i2f (BitVec.signExtend 32 0x800000#24) = 0xBF800001#32 := by decide
    rw [hi2f, f2i_of_le_magnitude mode nan (by decide) (by decide)]
    exact ⟨rfl, rfl⟩

/-! ### The range (45 R273) -/

theorem roundShift_le {m k N : ℕ} (h : m ≤ N * 2 ^ k) : roundShift m k ≤ N := by
  have hdiv : m / 2 ^ k ≤ N := Nat.div_le_of_le_mul (by rwa [mul_comm])
  have hmod := Nat.div_add_mod' m (2 ^ k)
  have hpos : 0 < 2 ^ k := by positivity
  unfold roundShift
  dsimp only
  split
  next hup =>
    refine Nat.lt_of_le_of_ne hdiv fun heq => ?_
    rw [heq] at hmod
    omega
  next => exact hdiv

/-- A magnitude of at most `N` rounds to at most `N`. -/
theorem wholeMagnitude_le (mode : Rounding) {mant N : ℕ} {exp : ℤ} (h : (mant : ℚ) * 2 ^ exp ≤ N) :
    wholeMagnitude mode mant exp ≤ N := by
  unfold wholeMagnitude
  split
  next hexp =>
    obtain ⟨k, rfl⟩ := Int.eq_ofNat_of_zero_le hexp
    rw [zpow_natCast] at h
    exact_mod_cast h
  next hexp =>
    obtain ⟨k, rfl⟩ : ∃ k : ℕ, exp = -(k : ℤ) := ⟨(-exp).toNat, by omega⟩
    rw [zpow_neg, zpow_natCast, ← div_eq_mul_inv, div_le_iff₀ (by positivity)] at h
    have hmant : mant ≤ N * 2 ^ k := by exact_mod_cast h
    rw [neg_neg, Int.toNat_natCast]
    cases mode with
    | rne => exact roundShift_le hmant
    | rtz => exact Nat.div_le_of_le_mul (by rwa [mul_comm])

theorem natAbs_roundToInt_le (mode : Rounding) {p : Word} {N : ℕ} (h : |f32Value p| ≤ N) :
    (roundToInt mode p).natAbs ≤ N := by
  rw [f32Value_eq, abs_mul, abs_mul, abs_signFactor, one_mul, Nat.abs_cast,
    abs_of_pos (zpow_pos two_pos _)] at h
  have hle := wholeMagnitude_le mode h
  rw [roundToInt_eq]
  split <;> omega

/-- A magnitude below `2^127` rounds to a finite pattern. -/
theorem f32IsFinite_f32Round (neg : Bool) {m : ℕ} {e : ℤ} (h : Nat.log2 m + e < 127) :
    f32IsFinite (f32Round neg m e) = true := by
  obtain rfl | hm := eq_or_ne m 0
  · rw [f32Round_zero, f32IsFinite_f32Pattern neg (by decide)]
    decide
  have hbinade : roundBinade m e ≤ 252 := by
    unfold roundBinade roundPlaces
    omega
  have hmant := roundMant_le m e
  rw [f32Round_eq neg hm, f32IsFinite_f32Pattern neg (by omega)]
  omega

/-- The rounding of a number that lies between two opposite finite values lies between them too: neither of
them is nearer. -/
theorem abs_f32Value_f32Round_le (neg : Bool) {m : ℕ} {e : ℤ}
    (hfin : f32IsFinite (f32Round neg m e) = true) {v w : Word} (hv : f32IsFinite v = true)
    (hw : f32IsFinite w = true) (hneg : f32Value w = -f32Value v) (h : (m : ℚ) * 2 ^ e ≤ f32Value v) :
    |f32Value (f32Round neg m e)| ≤ f32Value v := by
  have habove : |f32Value (f32Round neg m e) - signFactor neg * m * 2 ^ e| ≤
      |f32Value v - signFactor neg * m * 2 ^ e| := (roundingIsNearest neg m e v hfin hv).1
  have hbelow : |f32Value (f32Round neg m e) - signFactor neg * m * 2 ^ e| ≤
      |f32Value w - signFactor neg * m * 2 ^ e| := (roundingIsNearest neg m e w hfin hw).1
  have hx : |signFactor neg * m * 2 ^ e| ≤ f32Value v := by
    rwa [abs_mul, abs_mul, abs_signFactor, one_mul, Nat.abs_cast, abs_of_pos (zpow_pos two_pos e)]
  generalize signFactor neg * m * 2 ^ e = x at habove hbelow hx
  obtain ⟨hlo, hhi⟩ := abs_le.1 hx
  have hv_sub : |f32Value v - x| = f32Value v - x := abs_of_nonneg (sub_nonneg.2 hhi)
  have hw_sub : |f32Value w - x| = x - f32Value w := by
    rw [hneg, abs_sub_comm, abs_of_nonneg (by linarith)]
  rw [hv_sub] at habove
  rw [hw_sub] at hbelow
  obtain ⟨-, hle⟩ := abs_le.1 habove
  obtain ⟨hge, -⟩ := abs_le.1 hbelow
  exact abs_le.2 ⟨by linarith, by linarith⟩

theorem f32Value_scaleOut : f32Value scaleOut = (8388607 : ℕ) := by
  rw [f32Value_eq, f32Unpack_scaleOut]
  norm_num [signFactor]

/-- The pattern of `−SCALE_OUT`. -/
theorem f32Value_neg_scaleOut : f32Value 0xCAFFFFFE#32 = -f32Value scaleOut := by
  have hunpack : f32Unpack 0xCAFFFFFE#32 = ⟨true, 2 ^ 24 - 2, -1⟩ := by decide
  rw [f32Value_scaleOut, f32Value_eq, hunpack]
  norm_num [signFactor]

theorem f32Unpack_exp_le_of_lt_one (neg : Bool) {mag : ℕ} (h : mag < 0x3F800000) :
    (f32Unpack (f32Pattern neg mag)).exp ≤ -24 := by
  rw [f32Unpack_f32Pattern neg (by omega)]
  split <;> dsimp only <;> omega

/-- An operand below 1.0 is scaled to at most `2^23 − 1`. -/
theorem abs_f32Value_scaleOut_le (neg : Bool) {mag : ℕ} (h : mag < 0x3F800000) :
    |f32Value (f32Mul (f32Pattern neg mag) scaleOut)| ≤ (8388607 : ℕ) := by
  have hmant := f32Unpack_mant_lt (f32Pattern neg mag)
  have hexp := f32Unpack_exp_le_of_lt_one neg h
  rw [f32Mul, f32Unpack_scaleOut, ← f32Value_scaleOut]
  generalize f32Unpack (f32Pattern neg mag) = x at hmant hexp
  obtain ⟨neg, mant, exp⟩ := x
  dsimp only at hmant hexp ⊢
  refine abs_f32Value_f32Round_le _ ?_ (by decide) (by decide) f32Value_neg_scaleOut ?_
  · have hlog : Nat.log2 (mant * (2 ^ 24 - 2)) < 48 := by
      obtain h0 | h0 := eq_or_ne (mant * (2 ^ 24 - 2)) 0
      · rw [h0]
        decide
      · exact (Nat.log2_lt h0).2 (by omega)
    exact f32IsFinite_f32Round _ (by omega)
  · have hone : (mant : ℚ) * 2 ^ exp ≤ 1 := by
      calc (mant : ℚ) * 2 ^ exp ≤ 2 ^ 24 * 2 ^ (-24 : ℤ) := by
            gcongr
            · exact_mod_cast hmant.le
            · norm_num
        _ = 1 := by norm_num
    calc ((mant * (2 ^ 24 - 2) : ℕ) : ℚ) * 2 ^ (exp + -1) = mant * 2 ^ exp * 8388607 := by
          rw [zpow_add₀ two_ne_zero]
          push_cast
          norm_num
          ring
      _ ≤ f32Value scaleOut := by
          rw [f32Value_scaleOut]
          push_cast
          linarith

theorem toInt_ofInt_of_natAbs_le {n : ℤ} (h : n.natAbs ≤ 8388607) : (BitVec.ofInt 32 n).toInt = n := by
  rw [BitVec.toInt_ofInt]
  exact Int.bmod_eq_of_le (by omega) (by omega)

/-- Settles O46: below 1.0 by the scaling, from 1.0 on by the clamp. -/
theorem floatToIntStaysInRange : Obligations.FloatToIntStaysInRange := by
  intro mode nan f hnan
  have hsat := f2i_of_le_magnitude mode nan hnan
  have htoNat := toNat_eq_sign_add_magnitude f
  refine ⟨?_, fun hsign hf => ?_, fun hsign hf => ?_⟩
  · obtain hge | hlt := le_or_gt 0x3F800000 (f.extractLsb' 0 31).toNat
    · rw [hsat hge]
      split <;> decide
    · have hself := f32Pattern_magnitude_self f
      have hclamp := f32Clamp_of_magnitude_le (f.getLsbD 31) hlt.le
      have hle := natAbs_roundToInt_le mode (abs_f32Value_scaleOut_le (f.getLsbD 31) hlt)
      rw [f2i_of_not_nan hnan, ← hself, hclamp, toInt_ofInt_of_natAbs_le hle]
      omega
  · rw [hsign, if_neg Bool.false_ne_true] at htoNat
    rw [hsat (by omega), hsign, if_neg Bool.false_ne_true]
  · rw [hsign, if_pos rfl] at htoNat
    rw [hsat (by omega), hsign, if_pos rfl]

end Sys2Proof.Machine
end

section
/-! SUPPORT. The pipeline (45 R280 to R282, 44 R250): HOST's accesses to the slots of a buffer pair, live or
not, and the arrays the callback leaves. -/

namespace Sys2Proof.Machine

/-! ### The slots of a buffer pair (20 R64, R73, R75) -/

/-- The slots of a buffer are its words in order. -/
theorem slotAddr_eq_word (base p ch : Nat) : slotAddr base p ch = base + 4 * (p * 2 + ch) :=
  congrArg (base + ·) (Nat.mul_comm _ 4)

/-- An address lies in one half only (20 R73). -/
theorem inHalf_iff_eq_of_inHalf {c : Cfg} {k : Fin 2} {a : Nat} (h : c.inHalf k.val a = true) (k' : Fin 2) :
    c.inHalf k'.val a = true ↔ k' = k := by
  have hdisjoint (h0 : c.inHalf 0 a = true) (h1 : c.inHalf 1 a = true) : False :=
    Bool.false_ne_true ((inHalf_one_of_inHalf_zero h0).symm.trans h1)
  refine ⟨fun h' => by_contra fun hne => ?_, fun heq => heq ▸ h⟩
  obtain ⟨hk', hk⟩ | ⟨hk', hk⟩ : k'.val = 0 ∧ k.val = 1 ∨ k'.val = 1 ∧ k.val = 0 := by omega
  · exact hdisjoint (hk' ▸ h') (hk ▸ h)
  · exact hdisjoint (hk ▸ h) (hk' ▸ h')

/-- An address of pair `k` is live exactly while that pair is. -/
theorem isLive_of_inHalf {s : State} {k : Fin 2} {a : Nat} (h : s.cfg.inHalf k.val a = true) :
    s.isLive a = true ↔ s.liveBuf = some k := by
  unfold State.isLive
  cases s.liveBuf with
  | none => simp
  | some k' => simp [inHalf_iff_eq_of_inHalf h]

section
variable {s : State} (hwf : s.cfg.wf = true) {p ch : Nat} (hp : p < s.cfg.blockSizeA) (hch : ch < 2)
include hp hch

theorem word_lt_bufBytes : 4 * (p * 2 + ch) < s.cfg.bufBytes := by
  simp only [Cfg.bufBytes, nbrChannels]
  omega

variable {k : Fin 2} {base : Nat} (hbase : base = s.cfg.inBase k.val ∨ base = s.cfg.outBase k.val)
include hbase

theorem inHalf_bufferSlot : s.cfg.inHalf k.val (slotAddr base p ch) = true := by
  have hlt := word_lt_bufBytes hp hch
  rw [inHalf_iff, ← inBase_eq, ← outBase_eq, slotAddr_eq_word]
  omega

include hwf

/-- The slots lie in the block, at the addresses HOST counts them by. -/
theorem bufferSlot_inBlock : (busAddr (slotAddr base p ch)).toNat = slotAddr base p ch ∧
    s.wordInBlock (busAddr (slotAddr base p ch)) = true := by
  have hslot : s.cfg.isSlot (slotAddr base p ch) = true := by
    refine (slotsAreBufferWords s.cfg _ hwf).2 ⟨k, k.isLt, p, hp, ch, hch, ?_⟩
    exact hbase.imp (fun h => by rw [h]) (fun h => by rw [h])
  simp only [Cfg.isSlot, Bool.and_eq_true, decide_eq_true_eq] at hslot
  have hend := smpBus_add_regionBytes_le hwf
  have hregion : s.cfg.regionBytes % 4 = 0 := by
    rw [regionBytes_eq]
    omega
  have hbegin := smpBus_aligned hwf
  have haddr : (busAddr (slotAddr base p ch)).toNat = slotAddr base p ch := by
    rw [busAddr, BitVec.toNat_ofNat, Nat.mod_eq_of_lt (by omega)]
  refine ⟨haddr, (wordInBlock_iff ..).2 ?_⟩
  rw [haddr]
  simp only [Cfg.inBlock, Bool.and_eq_true, decide_eq_true_eq]
  simp only [Cfg.smpBus, Cfg.blockLen] at hslot hbegin ⊢
  omega

theorem hostRead_bufferSlot : s.hostRead (busAddr (slotAddr base p ch)) =
    .ok (Memory.readWord s.mem (slotAddr base p ch), if s.liveBuf = some k then s.markRace else s) := by
  obtain ⟨haddr, hword⟩ := bufferSlot_inBlock hwf hp hch hbase
  rw [hostRead_word (ne_pcmFifoBus_of_wordInBlock hwf hword) hword, haddr]
  simp only [isLive_of_inHalf (inHalf_bufferSlot hp hch hbase)]

theorem hostWrite_bufferSlot (v : Word) : s.hostWrite (busAddr (slotAddr base p ch)) v =
    if s.liveBuf = some k then .refused .liveHalfWrite
    else .ok (s.withMem (Memory.writeWord s.mem (slotAddr base p ch) v)) := by
  obtain ⟨haddr, hword⟩ := bufferSlot_inBlock hwf hp hch hbase
  have hhalf := inHalf_bufferSlot hp hch hbase
  rw [hostWrite_word (ne_pcmFifoBus_of_wordInBlock hwf hword) hword, haddr,
    inDescArea_eq_false_of_inHalf hhalf, Bool.and_false, if_neg Bool.false_ne_true]
  simp only [isLive_of_inHalf hhalf]

end

/-! ### The word steps (45 R280, R282) -/

section
variable {s : State} (hwf : s.cfg.wf = true) {p ch : Nat} (hp : p < s.cfg.blockSizeA) (hch : ch < 2)
  (k : Fin 2) (rest : List HostOp)
include hwf hp hch

theorem pipeInStep_eq : s.pipeInStep k (p * 2 + ch) rest = .next { s with host := { s.host with
    stageIn := s.host.stageIn.set ch p (i2f (Memory.readWord s.mem (slotAddr (s.cfg.inBase k.val) p ch)))
    race := s.host.race || decide (s.liveBuf = some k)
    ops := .pipeIn k (p * 2 + ch + 1) :: rest } } := by
  have hchan : (p * 2 + ch) % nbrChannels = ch := by simp only [nbrChannels]; omega
  have hframe : (p * 2 + ch) / nbrChannels = p := by simp only [nbrChannels]; omega
  rw [State.pipeInStep, if_pos (word_lt_bufBytes hp hch), ← slotAddr_eq_word,
    hostRead_bufferSlot hwf hp hch (.inl rfl), hchan, hframe]
  by_cases hlive : s.liveBuf = some k
  · simp only [if_pos hlive, decide_eq_true hlive, Bool.or_true]
    rfl
  · simp only [if_neg hlive, decide_eq_false hlive, Bool.or_false]
    rfl

theorem pipeOutStep_eq : s.pipeOutStep k (p * 2 + ch) rest =
    if s.liveBuf = some k then .refused .liveHalfWrite
    else .next { s with
      mem := Memory.writeWord s.mem (slotAddr (s.cfg.outBase k.val) p ch)
        (f2i s.cfg.f2iRound s.free (s.host.stageOut.get ch p))
      host := { s.host with ops := .pipeOut k (p * 2 + ch + 1) :: rest }
      env := { s.env with draws := s.env.draws + 1 } } := by
  have hchan : (p * 2 + ch) % nbrChannels = ch := by simp only [nbrChannels]; omega
  have hframe : (p * 2 + ch) / nbrChannels = p := by simp only [nbrChannels]; omega
  have hwrite := hostWrite_bufferSlot (s := s.drew 1) hwf hp hch (k := k) (.inr rfl)
    (f2i s.cfg.f2iRound s.free (s.host.stageOut.get ch p))
  have hlive : (s.drew 1).liveBuf = s.liveBuf := rfl
  rw [State.drew_cfg, hlive] at hwrite
  rw [State.pipeOutStep, if_pos (word_lt_bufBytes hp hch), ← slotAddr_eq_word, hchan, hframe,
    State.walkWrite, hwrite]
  split_ifs <;> rfl

end

/-! ### The callback (44 R250, 45 R281) -/

theorem callbackTurn_of_ops {s : State} {rest : List HostOp} (hops : s.host.ops = .pipeCall :: rest)
    (out0 out1 : List Word) (exit : Bool) : s.callbackTurn out0 out1 exit = { s with
      host := { s.host with
        stageOut := ⟨callbackArray out0 s.cfg.blockSizeA s.env.draws,
          callbackArray out1 s.cfg.blockSizeA (s.env.draws + s.cfg.blockSizeA)⟩
        exitRequested := s.host.exitRequested || exit
        ops := rest }
      env := { s.env with draws := s.env.draws + 2 * s.cfg.blockSizeA } } := by
  rw [State.callbackTurn, hops]
  rfl

/-- The words the callback gives are left as they are (45 R281). -/
theorem callbackArray_getD {out : List Word} {size p : Nat} (hp : p < size) (hout : p < out.length)
    (draws : Nat) : (callbackArray out size draws).getD p 0#32 = out.getD p 0#32 := by
  simp [callbackArray, List.getD, hp, hout]

/-- Settles O54: the access to the slot is a word of the block, live exactly with its pair. -/
theorem pipelineMovesOneWord : Obligations.PipelineMovesOneWord := by
  intro s k p ch rest hwf hmem hp hch
  have hout : s.hostOpStep (.pipeOut k (p * 2 + ch)) rest = _ := pipeOutStep_eq hwf hp hch k rest
  refine ⟨⟨_, pipeInStep_eq hwf hp hch k rest, rfl⟩, fun hlive => ?_, fun hlive => ?_,
    fun o0 o1 e hops => ?_⟩
  · rw [hout, if_pos hlive]
  · rw [hout, if_neg hlive]
    exact ⟨_, _, rfl, Memory.readWord_writeWord_self _ _ hmem,
      fun _ => Memory.readByte_writeWord_of_outside _ _⟩
  · refine ⟨_, _, congrArg Host.Outcome.next (callbackTurn_of_ops hops o0 o1 e), length_callbackArray ..,
      length_callbackArray .., fun h => ?_, fun h => ?_⟩
    · exact callbackArray_getD hp h _
    · exact callbackArray_getD hp h _

end Sys2Proof.Machine
end
